-- ==== Sys2Proof/Word.lean ====
section
/-! DEFINITION. The machine's two word types (spec/00_scope.md R11: data width 8, address width 16). -/

namespace Sys2Proof

/-- A data byte: the width of A, X, Y, SP, P and of every bus access (R11, R78). -/
abbrev Byte := BitVec 8

/-- A 16-bit word: the width of PC and of an address (R11, R70). -/
abbrev Word := BitVec 16

end Sys2Proof
end

