-- ==== Sys2Proof/Machine/Bits.lean ====
section
/-! DEFINITION. Bit slices, extensions and byte joining (spec/00_scope.md R12). -/

namespace Sys2Proof.Machine

/-- `hi(w) = w[15:8]` (R12). -/
def hi (w : Word) : Byte := BitVec.ofNat 8 (w.toNat / 256)

/-- `lo(w) = w[7:0]` (R12). -/
def lo (w : Word) : Byte := BitVec.ofNat 8 w.toNat

/-- `h:l = (h << 8) | l` (R12). -/
def join (h l : Byte) : Word := BitVec.ofNat 16 (h.toNat * 256 + l.toNat)

/-- `zext_16(b)` (R12): a zero-page address is `0x00:nn` (R133). -/
def zext (b : Byte) : Word := BitVec.ofNat 16 b.toNat

/-- `sext_16(b)`: `b - 256` if `b[7] = 1`, else `b`, modulo 2^16 (R12). -/
def sext (b : Byte) : Word := if b.toNat < 128 then BitVec.ofNat 16 b.toNat else BitVec.ofNat 16 (b.toNat + 0xFF00)

/-- The bank (window) number `addr >> 12` (20_memory.md R71). -/
def bank (a : Word) : Nat := a.toNat / 4096

/-- The offset `addr & 0xFFF` (20_memory.md R71). -/
def offset (a : Word) : Nat := a.toNat % 4096

end Sys2Proof.Machine
end

