-- ==== Sys2Proof/Syntax.lean ====
section
/-! DEFINITION. The instruction set as syntax: one constructor per mnemonic of spec/opcode_table.json, its
argument the operand form (the row of that mnemonic), and four constructors for `NOP*`, one per format.
Rules: spec/30_encoding.md R130, R131, R139. -/

namespace Sys2Proof

/-- Parameter `BITOPS`: are RMB, SMB, BBR and BBS instructions? (R11, R139, D1) -/
inductive BitOps where
  | present
  | absent
deriving DecidableEq, Repr, Inhabited

/-- Parameter `UNDOC_POLICY`: what an unassigned opcode does (R11, R395, D2). -/
inductive UndocPolicy where
  | nop
  | refuse
deriving DecidableEq, Repr, Inhabited

/-- The memory operand forms (R131): each names a byte at an effective address. -/
inductive Mem where
  | zp   (nn : Byte)
  | zpx  (nn : Byte)
  | zpy  (nn : Byte)
  | abs  (hhll : Word)
  | absx (hhll : Word)
  | absy (hhll : Word)
  | izx  (nn : Byte)
  | izy  (nn : Byte)
  | izp  (nn : Byte)
deriving DecidableEq, Repr, Inhabited

/-- The names of the memory forms, without their operand bytes (R131's format column). -/
inductive Mode where
  | zp | zpx | zpy | abs | absx | absy | izx | izy | izp
deriving DecidableEq, Repr

/-- The form of a memory operand. -/
def Mem.mode : Mem → Mode
  | .zp _ => .zp
  | .zpx _ => .zpx
  | .zpy _ => .zpy
  | .abs _ => .abs
  | .absx _ => .absx
  | .absy _ => .absy
  | .izx _ => .izx
  | .izy _ => .izy
  | .izp _ => .izp

/-- The operand of a reading instruction: an immediate byte or a byte in memory (R132, R179). -/
inductive Src where
  | imm (ii : Byte)
  | mem (m : Mem)
deriving DecidableEq, Repr, Inhabited

/-- The operand of a read-modify-write instruction: the accumulator or a byte in memory (R179, R310). -/
inductive Dst where
  | acc
  | mem (m : Mem)
deriving DecidableEq, Repr, Inhabited

/-- The operand of JMP (R340). -/
inductive Target where
  | abs (hhll : Word)
  | ind (hhll : Word)
  | iax (hhll : Word)
deriving DecidableEq, Repr, Inhabited

/-- The instructions. A branch carries its displacement byte `rr`, BRK its signature byte, and an unassigned
opcode (`NOP*`) its own opcode byte and its ignored operand bytes. -/
inductive Instr where
  | lda (src : Src)
  | ldx (src : Src)
  | ldy (src : Src)
  | sta (m : Mem)
  | stx (m : Mem)
  | sty (m : Mem)
  | stz (m : Mem)
  | tax
  | tay
  | txa
  | tya
  | tsx
  | txs
  | pha
  | php
  | phx
  | phy
  | pla
  | plp
  | plx
  | ply
  | adc (src : Src)
  | sbc (src : Src)
  | cmp (src : Src)
  | cpx (src : Src)
  | cpy (src : Src)
  | and (src : Src)
  | ora (src : Src)
  | eor (src : Src)
  | bit (src : Src)
  | tsb (m : Mem)
  | trb (m : Mem)
  | rmb0 (nn : Byte)
  | rmb1 (nn : Byte)
  | rmb2 (nn : Byte)
  | rmb3 (nn : Byte)
  | rmb4 (nn : Byte)
  | rmb5 (nn : Byte)
  | rmb6 (nn : Byte)
  | rmb7 (nn : Byte)
  | smb0 (nn : Byte)
  | smb1 (nn : Byte)
  | smb2 (nn : Byte)
  | smb3 (nn : Byte)
  | smb4 (nn : Byte)
  | smb5 (nn : Byte)
  | smb6 (nn : Byte)
  | smb7 (nn : Byte)
  | inc (dst : Dst)
  | dec (dst : Dst)
  | inx
  | iny
  | dex
  | dey
  | asl (dst : Dst)
  | lsr (dst : Dst)
  | rol (dst : Dst)
  | ror (dst : Dst)
  | jmp (t : Target)
  | jsr (hhll : Word)
  | rts
  | brk (ss : Byte)
  | rti
  | bpl (rr : Byte)
  | bmi (rr : Byte)
  | bvc (rr : Byte)
  | bvs (rr : Byte)
  | bcc (rr : Byte)
  | bcs (rr : Byte)
  | bne (rr : Byte)
  | beq (rr : Byte)
  | bra (rr : Byte)
  | bbr0 (nn rr : Byte)
  | bbr1 (nn rr : Byte)
  | bbr2 (nn rr : Byte)
  | bbr3 (nn rr : Byte)
  | bbr4 (nn rr : Byte)
  | bbr5 (nn rr : Byte)
  | bbr6 (nn rr : Byte)
  | bbr7 (nn rr : Byte)
  | bbs0 (nn rr : Byte)
  | bbs1 (nn rr : Byte)
  | bbs2 (nn rr : Byte)
  | bbs3 (nn rr : Byte)
  | bbs4 (nn rr : Byte)
  | bbs5 (nn rr : Byte)
  | bbs6 (nn rr : Byte)
  | bbs7 (nn rr : Byte)
  | clc
  | sec
  | cli
  | sei
  | cld
  | sed
  | clv
  | nop
  | wai
  | stp
  | nopU1 (op : Byte)
  | nopU2 (op ii : Byte)
  | nopU2zp (op nn : Byte)
  | nopU3 (op : Byte) (hhll : Word)
deriving DecidableEq, Repr, Inhabited

end Sys2Proof
end

