-- ==== Sys2Proof/WellFormed.lean ====
section
/-! DEFINITION. Which instruction terms stand for a row of the opcode table: the operand form is one the mnemonic
has (spec/30_encoding.md section 7), an unassigned opcode stands in its own format (R142), and the bit
instructions exist only when `BITOPS` = present (R139). -/

namespace Sys2Proof

/-- Is the memory form one of those listed? -/
def Mem.oneOf (ms : List Mode) (m : Mem) : Bool := ms.contains m.mode

/-- An immediate, or a memory form listed. -/
def Src.oneOf (ms : List Mode) : Src → Bool
  | .imm _ => true
  | .mem m => m.oneOf ms

/-- The accumulator, or a memory form listed. -/
def Dst.oneOf (ms : List Mode) : Dst → Bool
  | .acc => true
  | .mem m => m.oneOf ms

/-- The eight memory forms of LDA, STA and the accumulator's ALU instructions. -/
def aluModes : List Mode := [.zp, .zpx, .abs, .absx, .absy, .izx, .izy, .izp]

/-- The four memory forms of the increments, shifts and rotates, of BIT, LDY and STZ. -/
def indexedXModes : List Mode := [.zp, .zpx, .abs, .absx]

/-- R142: the 2-byte opcodes of format `u2`. -/
def u2Opcodes : List Byte := [0x02, 0x22, 0x42, 0x62, 0x82, 0xC2, 0xE2]

/-- R142: the 2-byte opcodes of format `u2zp`. -/
def u2zpOpcodes : List Byte := [0x44, 0x54, 0xD4, 0xF4]

/-- R142: the 3-byte opcodes. -/
def u3Opcodes : List Byte := [0x5C, 0xDC, 0xFC]

/-- R139, R136: the opcodes of class `bitops`, 0x?7 and 0x?F. -/
def isBitOpcode (op : Byte) : Bool := op.toNat % 8 == 7

/-- R142: the 1-byte unassigned opcodes, every 0x?3 and 0x?B but WAI and STP; with `BITOPS` = absent also every
0x?7 and 0x?F. -/
def isU1Opcode (b : BitOps) (op : Byte) : Bool :=
  (op.toNat % 8 == 3 && op != 0xCB && op != 0xDB) || (b == .absent && isBitOpcode op)

/-- Does the term stand for a row of the opcode table under this value of `BITOPS`? -/
def Instr.wf (b : BitOps) : Instr → Bool
  | .lda src => src.oneOf aluModes
  | .adc src => src.oneOf aluModes
  | .sbc src => src.oneOf aluModes
  | .cmp src => src.oneOf aluModes
  | .and src => src.oneOf aluModes
  | .ora src => src.oneOf aluModes
  | .eor src => src.oneOf aluModes
  | .ldx src => src.oneOf [.zp, .zpy, .abs, .absy]
  | .ldy src => src.oneOf indexedXModes
  | .bit src => src.oneOf indexedXModes
  | .cpx src => src.oneOf [.zp, .abs]
  | .cpy src => src.oneOf [.zp, .abs]
  | .sta m => m.oneOf aluModes
  | .stx m => m.oneOf [.zp, .zpy, .abs]
  | .sty m => m.oneOf [.zp, .zpx, .abs]
  | .stz m => m.oneOf indexedXModes
  | .tsb m => m.oneOf [.zp, .abs]
  | .trb m => m.oneOf [.zp, .abs]
  | .inc dst => dst.oneOf indexedXModes
  | .dec dst => dst.oneOf indexedXModes
  | .asl dst => dst.oneOf indexedXModes
  | .lsr dst => dst.oneOf indexedXModes
  | .rol dst => dst.oneOf indexedXModes
  | .ror dst => dst.oneOf indexedXModes
  | .rmb0 _ => b == .present
  | .rmb1 _ => b == .present
  | .rmb2 _ => b == .present
  | .rmb3 _ => b == .present
  | .rmb4 _ => b == .present
  | .rmb5 _ => b == .present
  | .rmb6 _ => b == .present
  | .rmb7 _ => b == .present
  | .smb0 _ => b == .present
  | .smb1 _ => b == .present
  | .smb2 _ => b == .present
  | .smb3 _ => b == .present
  | .smb4 _ => b == .present
  | .smb5 _ => b == .present
  | .smb6 _ => b == .present
  | .smb7 _ => b == .present
  | .bbr0 _ _ => b == .present
  | .bbr1 _ _ => b == .present
  | .bbr2 _ _ => b == .present
  | .bbr3 _ _ => b == .present
  | .bbr4 _ _ => b == .present
  | .bbr5 _ _ => b == .present
  | .bbr6 _ _ => b == .present
  | .bbr7 _ _ => b == .present
  | .bbs0 _ _ => b == .present
  | .bbs1 _ _ => b == .present
  | .bbs2 _ _ => b == .present
  | .bbs3 _ _ => b == .present
  | .bbs4 _ _ => b == .present
  | .bbs5 _ _ => b == .present
  | .bbs6 _ _ => b == .present
  | .bbs7 _ _ => b == .present
  | .tax => true
  | .tay => true
  | .txa => true
  | .tya => true
  | .tsx => true
  | .txs => true
  | .pha => true
  | .php => true
  | .phx => true
  | .phy => true
  | .pla => true
  | .plp => true
  | .plx => true
  | .ply => true
  | .inx => true
  | .iny => true
  | .dex => true
  | .dey => true
  | .jmp _ => true
  | .jsr _ => true
  | .rts => true
  | .rti => true
  | .brk _ => true
  | .bpl _ => true
  | .bmi _ => true
  | .bvc _ => true
  | .bvs _ => true
  | .bcc _ => true
  | .bcs _ => true
  | .bne _ => true
  | .beq _ => true
  | .bra _ => true
  | .clc => true
  | .sec => true
  | .cli => true
  | .sei => true
  | .cld => true
  | .sed => true
  | .clv => true
  | .nop => true
  | .wai => true
  | .stp => true
  | .nopU1 op => isU1Opcode b op
  | .nopU2 op _ => u2Opcodes.contains op
  | .nopU2zp op _ => u2zpOpcodes.contains op
  | .nopU3 op _ => u3Opcodes.contains op

/-- The term stands for a row of the opcode table. -/
abbrev WellFormed (b : BitOps) (i : Instr) : Prop := i.wf b = true

end Sys2Proof
end

