-- ==== Sys2Proof/Decode.lean ====
section
/-! DEFINITION. The decoder, total on all 256 opcode bytes, and the encoder. Rules: spec/30_encoding.md R130 to R142. The
grid's rows are section 6's (row = high nibble, column = low nibble), read against section 7's listing; the encoder is
written from the Encoding line of each instruction's own rule. -/

namespace Sys2Proof

open Machine (join hi lo)

/-- Row 0x0? of the opcode grid (section 6): the instruction of low nibble `n`, with operand bytes `b1` and `b2`. -/
def gridRow0 (n : Nat) (op b1 b2 : Byte) : Instr :=
  match n with
  | 0x0 => .brk b1
  | 0x1 => .ora (.mem (.izx b1))
  | 0x2 => .nopU2 op b1
  | 0x3 => .nopU1 op
  | 0x4 => .tsb (.zp b1)
  | 0x5 => .ora (.mem (.zp b1))
  | 0x6 => .asl (.mem (.zp b1))
  | 0x7 => .rmb0 b1
  | 0x8 => .php
  | 0x9 => .ora (.imm b1)
  | 0xA => .asl .acc
  | 0xB => .nopU1 op
  | 0xC => .tsb (.abs (join b2 b1))
  | 0xD => .ora (.mem (.abs (join b2 b1)))
  | 0xE => .asl (.mem (.abs (join b2 b1)))
  | _ => .bbr0 b1 b2

/-- Row 0x1? of the opcode grid (section 6): the instruction of low nibble `n`, with operand bytes `b1` and `b2`. -/
def gridRow1 (n : Nat) (op b1 b2 : Byte) : Instr :=
  match n with
  | 0x0 => .bpl b1
  | 0x1 => .ora (.mem (.izy b1))
  | 0x2 => .ora (.mem (.izp b1))
  | 0x3 => .nopU1 op
  | 0x4 => .trb (.zp b1)
  | 0x5 => .ora (.mem (.zpx b1))
  | 0x6 => .asl (.mem (.zpx b1))
  | 0x7 => .rmb1 b1
  | 0x8 => .clc
  | 0x9 => .ora (.mem (.absy (join b2 b1)))
  | 0xA => .inc .acc
  | 0xB => .nopU1 op
  | 0xC => .trb (.abs (join b2 b1))
  | 0xD => .ora (.mem (.absx (join b2 b1)))
  | 0xE => .asl (.mem (.absx (join b2 b1)))
  | _ => .bbr1 b1 b2

/-- Row 0x2? of the opcode grid (section 6): the instruction of low nibble `n`, with operand bytes `b1` and `b2`. -/
def gridRow2 (n : Nat) (op b1 b2 : Byte) : Instr :=
  match n with
  | 0x0 => .jsr (join b2 b1)
  | 0x1 => .and (.mem (.izx b1))
  | 0x2 => .nopU2 op b1
  | 0x3 => .nopU1 op
  | 0x4 => .bit (.mem (.zp b1))
  | 0x5 => .and (.mem (.zp b1))
  | 0x6 => .rol (.mem (.zp b1))
  | 0x7 => .rmb2 b1
  | 0x8 => .plp
  | 0x9 => .and (.imm b1)
  | 0xA => .rol .acc
  | 0xB => .nopU1 op
  | 0xC => .bit (.mem (.abs (join b2 b1)))
  | 0xD => .and (.mem (.abs (join b2 b1)))
  | 0xE => .rol (.mem (.abs (join b2 b1)))
  | _ => .bbr2 b1 b2

/-- Row 0x3? of the opcode grid (section 6): the instruction of low nibble `n`, with operand bytes `b1` and `b2`. -/
def gridRow3 (n : Nat) (op b1 b2 : Byte) : Instr :=
  match n with
  | 0x0 => .bmi b1
  | 0x1 => .and (.mem (.izy b1))
  | 0x2 => .and (.mem (.izp b1))
  | 0x3 => .nopU1 op
  | 0x4 => .bit (.mem (.zpx b1))
  | 0x5 => .and (.mem (.zpx b1))
  | 0x6 => .rol (.mem (.zpx b1))
  | 0x7 => .rmb3 b1
  | 0x8 => .sec
  | 0x9 => .and (.mem (.absy (join b2 b1)))
  | 0xA => .dec .acc
  | 0xB => .nopU1 op
  | 0xC => .bit (.mem (.absx (join b2 b1)))
  | 0xD => .and (.mem (.absx (join b2 b1)))
  | 0xE => .rol (.mem (.absx (join b2 b1)))
  | _ => .bbr3 b1 b2

/-- Row 0x4? of the opcode grid (section 6): the instruction of low nibble `n`, with operand bytes `b1` and `b2`. -/
def gridRow4 (n : Nat) (op b1 b2 : Byte) : Instr :=
  match n with
  | 0x0 => .rti
  | 0x1 => .eor (.mem (.izx b1))
  | 0x2 => .nopU2 op b1
  | 0x3 => .nopU1 op
  | 0x4 => .nopU2zp op b1
  | 0x5 => .eor (.mem (.zp b1))
  | 0x6 => .lsr (.mem (.zp b1))
  | 0x7 => .rmb4 b1
  | 0x8 => .pha
  | 0x9 => .eor (.imm b1)
  | 0xA => .lsr .acc
  | 0xB => .nopU1 op
  | 0xC => .jmp (.abs (join b2 b1))
  | 0xD => .eor (.mem (.abs (join b2 b1)))
  | 0xE => .lsr (.mem (.abs (join b2 b1)))
  | _ => .bbr4 b1 b2

/-- Row 0x5? of the opcode grid (section 6): the instruction of low nibble `n`, with operand bytes `b1` and `b2`. -/
def gridRow5 (n : Nat) (op b1 b2 : Byte) : Instr :=
  match n with
  | 0x0 => .bvc b1
  | 0x1 => .eor (.mem (.izy b1))
  | 0x2 => .eor (.mem (.izp b1))
  | 0x3 => .nopU1 op
  | 0x4 => .nopU2zp op b1
  | 0x5 => .eor (.mem (.zpx b1))
  | 0x6 => .lsr (.mem (.zpx b1))
  | 0x7 => .rmb5 b1
  | 0x8 => .cli
  | 0x9 => .eor (.mem (.absy (join b2 b1)))
  | 0xA => .phy
  | 0xB => .nopU1 op
  | 0xC => .nopU3 op (join b2 b1)
  | 0xD => .eor (.mem (.absx (join b2 b1)))
  | 0xE => .lsr (.mem (.absx (join b2 b1)))
  | _ => .bbr5 b1 b2

/-- Row 0x6? of the opcode grid (section 6): the instruction of low nibble `n`, with operand bytes `b1` and `b2`. -/
def gridRow6 (n : Nat) (op b1 b2 : Byte) : Instr :=
  match n with
  | 0x0 => .rts
  | 0x1 => .adc (.mem (.izx b1))
  | 0x2 => .nopU2 op b1
  | 0x3 => .nopU1 op
  | 0x4 => .stz (.zp b1)
  | 0x5 => .adc (.mem (.zp b1))
  | 0x6 => .ror (.mem (.zp b1))
  | 0x7 => .rmb6 b1
  | 0x8 => .pla
  | 0x9 => .adc (.imm b1)
  | 0xA => .ror .acc
  | 0xB => .nopU1 op
  | 0xC => .jmp (.ind (join b2 b1))
  | 0xD => .adc (.mem (.abs (join b2 b1)))
  | 0xE => .ror (.mem (.abs (join b2 b1)))
  | _ => .bbr6 b1 b2

/-- Row 0x7? of the opcode grid (section 6): the instruction of low nibble `n`, with operand bytes `b1` and `b2`. -/
def gridRow7 (n : Nat) (op b1 b2 : Byte) : Instr :=
  match n with
  | 0x0 => .bvs b1
  | 0x1 => .adc (.mem (.izy b1))
  | 0x2 => .adc (.mem (.izp b1))
  | 0x3 => .nopU1 op
  | 0x4 => .stz (.zpx b1)
  | 0x5 => .adc (.mem (.zpx b1))
  | 0x6 => .ror (.mem (.zpx b1))
  | 0x7 => .rmb7 b1
  | 0x8 => .sei
  | 0x9 => .adc (.mem (.absy (join b2 b1)))
  | 0xA => .ply
  | 0xB => .nopU1 op
  | 0xC => .jmp (.iax (join b2 b1))
  | 0xD => .adc (.mem (.absx (join b2 b1)))
  | 0xE => .ror (.mem (.absx (join b2 b1)))
  | _ => .bbr7 b1 b2

/-- Row 0x8? of the opcode grid (section 6): the instruction of low nibble `n`, with operand bytes `b1` and `b2`. -/
def gridRow8 (n : Nat) (op b1 b2 : Byte) : Instr :=
  match n with
  | 0x0 => .bra b1
  | 0x1 => .sta (.izx b1)
  | 0x2 => .nopU2 op b1
  | 0x3 => .nopU1 op
  | 0x4 => .sty (.zp b1)
  | 0x5 => .sta (.zp b1)
  | 0x6 => .stx (.zp b1)
  | 0x7 => .smb0 b1
  | 0x8 => .dey
  | 0x9 => .bit (.imm b1)
  | 0xA => .txa
  | 0xB => .nopU1 op
  | 0xC => .sty (.abs (join b2 b1))
  | 0xD => .sta (.abs (join b2 b1))
  | 0xE => .stx (.abs (join b2 b1))
  | _ => .bbs0 b1 b2

/-- Row 0x9? of the opcode grid (section 6): the instruction of low nibble `n`, with operand bytes `b1` and `b2`. -/
def gridRow9 (n : Nat) (op b1 b2 : Byte) : Instr :=
  match n with
  | 0x0 => .bcc b1
  | 0x1 => .sta (.izy b1)
  | 0x2 => .sta (.izp b1)
  | 0x3 => .nopU1 op
  | 0x4 => .sty (.zpx b1)
  | 0x5 => .sta (.zpx b1)
  | 0x6 => .stx (.zpy b1)
  | 0x7 => .smb1 b1
  | 0x8 => .tya
  | 0x9 => .sta (.absy (join b2 b1))
  | 0xA => .txs
  | 0xB => .nopU1 op
  | 0xC => .stz (.abs (join b2 b1))
  | 0xD => .sta (.absx (join b2 b1))
  | 0xE => .stz (.absx (join b2 b1))
  | _ => .bbs1 b1 b2

/-- Row 0xA? of the opcode grid (section 6): the instruction of low nibble `n`, with operand bytes `b1` and `b2`. -/
def gridRowA (n : Nat) (op b1 b2 : Byte) : Instr :=
  match n with
  | 0x0 => .ldy (.imm b1)
  | 0x1 => .lda (.mem (.izx b1))
  | 0x2 => .ldx (.imm b1)
  | 0x3 => .nopU1 op
  | 0x4 => .ldy (.mem (.zp b1))
  | 0x5 => .lda (.mem (.zp b1))
  | 0x6 => .ldx (.mem (.zp b1))
  | 0x7 => .smb2 b1
  | 0x8 => .tay
  | 0x9 => .lda (.imm b1)
  | 0xA => .tax
  | 0xB => .nopU1 op
  | 0xC => .ldy (.mem (.abs (join b2 b1)))
  | 0xD => .lda (.mem (.abs (join b2 b1)))
  | 0xE => .ldx (.mem (.abs (join b2 b1)))
  | _ => .bbs2 b1 b2

/-- Row 0xB? of the opcode grid (section 6): the instruction of low nibble `n`, with operand bytes `b1` and `b2`. -/
def gridRowB (n : Nat) (op b1 b2 : Byte) : Instr :=
  match n with
  | 0x0 => .bcs b1
  | 0x1 => .lda (.mem (.izy b1))
  | 0x2 => .lda (.mem (.izp b1))
  | 0x3 => .nopU1 op
  | 0x4 => .ldy (.mem (.zpx b1))
  | 0x5 => .lda (.mem (.zpx b1))
  | 0x6 => .ldx (.mem (.zpy b1))
  | 0x7 => .smb3 b1
  | 0x8 => .clv
  | 0x9 => .lda (.mem (.absy (join b2 b1)))
  | 0xA => .tsx
  | 0xB => .nopU1 op
  | 0xC => .ldy (.mem (.absx (join b2 b1)))
  | 0xD => .lda (.mem (.absx (join b2 b1)))
  | 0xE => .ldx (.mem (.absy (join b2 b1)))
  | _ => .bbs3 b1 b2

/-- Row 0xC? of the opcode grid (section 6): the instruction of low nibble `n`, with operand bytes `b1` and `b2`. -/
def gridRowC (n : Nat) (op b1 b2 : Byte) : Instr :=
  match n with
  | 0x0 => .cpy (.imm b1)
  | 0x1 => .cmp (.mem (.izx b1))
  | 0x2 => .nopU2 op b1
  | 0x3 => .nopU1 op
  | 0x4 => .cpy (.mem (.zp b1))
  | 0x5 => .cmp (.mem (.zp b1))
  | 0x6 => .dec (.mem (.zp b1))
  | 0x7 => .smb4 b1
  | 0x8 => .iny
  | 0x9 => .cmp (.imm b1)
  | 0xA => .dex
  | 0xB => .wai
  | 0xC => .cpy (.mem (.abs (join b2 b1)))
  | 0xD => .cmp (.mem (.abs (join b2 b1)))
  | 0xE => .dec (.mem (.abs (join b2 b1)))
  | _ => .bbs4 b1 b2

/-- Row 0xD? of the opcode grid (section 6): the instruction of low nibble `n`, with operand bytes `b1` and `b2`. -/
def gridRowD (n : Nat) (op b1 b2 : Byte) : Instr :=
  match n with
  | 0x0 => .bne b1
  | 0x1 => .cmp (.mem (.izy b1))
  | 0x2 => .cmp (.mem (.izp b1))
  | 0x3 => .nopU1 op
  | 0x4 => .nopU2zp op b1
  | 0x5 => .cmp (.mem (.zpx b1))
  | 0x6 => .dec (.mem (.zpx b1))
  | 0x7 => .smb5 b1
  | 0x8 => .cld
  | 0x9 => .cmp (.mem (.absy (join b2 b1)))
  | 0xA => .phx
  | 0xB => .stp
  | 0xC => .nopU3 op (join b2 b1)
  | 0xD => .cmp (.mem (.absx (join b2 b1)))
  | 0xE => .dec (.mem (.absx (join b2 b1)))
  | _ => .bbs5 b1 b2

/-- Row 0xE? of the opcode grid (section 6): the instruction of low nibble `n`, with operand bytes `b1` and `b2`. -/
def gridRowE (n : Nat) (op b1 b2 : Byte) : Instr :=
  match n with
  | 0x0 => .cpx (.imm b1)
  | 0x1 => .sbc (.mem (.izx b1))
  | 0x2 => .nopU2 op b1
  | 0x3 => .nopU1 op
  | 0x4 => .cpx (.mem (.zp b1))
  | 0x5 => .sbc (.mem (.zp b1))
  | 0x6 => .inc (.mem (.zp b1))
  | 0x7 => .smb6 b1
  | 0x8 => .inx
  | 0x9 => .sbc (.imm b1)
  | 0xA => .nop
  | 0xB => .nopU1 op
  | 0xC => .cpx (.mem (.abs (join b2 b1)))
  | 0xD => .sbc (.mem (.abs (join b2 b1)))
  | 0xE => .inc (.mem (.abs (join b2 b1)))
  | _ => .bbs6 b1 b2

/-- Row 0xF? of the opcode grid (section 6): the instruction of low nibble `n`, with operand bytes `b1` and `b2`. -/
def gridRowF (n : Nat) (op b1 b2 : Byte) : Instr :=
  match n with
  | 0x0 => .beq b1
  | 0x1 => .sbc (.mem (.izy b1))
  | 0x2 => .sbc (.mem (.izp b1))
  | 0x3 => .nopU1 op
  | 0x4 => .nopU2zp op b1
  | 0x5 => .sbc (.mem (.zpx b1))
  | 0x6 => .inc (.mem (.zpx b1))
  | 0x7 => .smb7 b1
  | 0x8 => .sed
  | 0x9 => .sbc (.mem (.absy (join b2 b1)))
  | 0xA => .plx
  | 0xB => .nopU1 op
  | 0xC => .nopU3 op (join b2 b1)
  | 0xD => .sbc (.mem (.absx (join b2 b1)))
  | 0xE => .inc (.mem (.absx (join b2 b1)))
  | _ => .bbs7 b1 b2

/-- The opcode grid (R139): the instruction that opcode byte `op` selects, with `BITOPS` = present. -/
def grid (op b1 b2 : Byte) : Instr :=
  match op.toNat / 16 with
  | 0x0 => gridRow0 (op.toNat % 16) op b1 b2
  | 0x1 => gridRow1 (op.toNat % 16) op b1 b2
  | 0x2 => gridRow2 (op.toNat % 16) op b1 b2
  | 0x3 => gridRow3 (op.toNat % 16) op b1 b2
  | 0x4 => gridRow4 (op.toNat % 16) op b1 b2
  | 0x5 => gridRow5 (op.toNat % 16) op b1 b2
  | 0x6 => gridRow6 (op.toNat % 16) op b1 b2
  | 0x7 => gridRow7 (op.toNat % 16) op b1 b2
  | 0x8 => gridRow8 (op.toNat % 16) op b1 b2
  | 0x9 => gridRow9 (op.toNat % 16) op b1 b2
  | 0xA => gridRowA (op.toNat % 16) op b1 b2
  | 0xB => gridRowB (op.toNat % 16) op b1 b2
  | 0xC => gridRowC (op.toNat % 16) op b1 b2
  | 0xD => gridRowD (op.toNat % 16) op b1 b2
  | 0xE => gridRowE (op.toNat % 16) op b1 b2
  | _ => gridRowF (op.toNat % 16) op b1 b2

/-- `Decode(op)` with its operand bytes (40_addressing.md R163): the opcode byte alone selects the row, and with `BITOPS` =
absent the opcodes 0x?7 and 0x?F are 1-byte unassigned opcodes (R139, R142). Bytes the form does not have are ignored. -/
def decodeOp (b : BitOps) (op b1 b2 : Byte) : Instr :=
  if b = .absent ∧ isBitOpcode op = true then .nopU1 op else grid op b1 b2

/-- Operand bytes of a memory form (R131). -/
def Mem.operandBytes : Mem → Nat
  | .abs _ | .absx _ | .absy _ => 2
  | .zp _ | .zpx _ | .zpy _ | .izx _ | .izy _ | .izp _ => 1

/-- Operand bytes of a reading instruction's operand. -/
def Src.operandBytes : Src → Nat
  | .imm _ => 1
  | .mem m => m.operandBytes

/-- Operand bytes of a read-modify-write operand. -/
def Dst.operandBytes : Dst → Nat
  | .acc => 0
  | .mem m => m.operandBytes

/-- The length of an instruction in bytes (R130, R131, R137, R142). -/
def Instr.length : Instr → Nat
  | .lda src => 1 + src.operandBytes
  | .ldx src => 1 + src.operandBytes
  | .ldy src => 1 + src.operandBytes
  | .adc src => 1 + src.operandBytes
  | .sbc src => 1 + src.operandBytes
  | .cmp src => 1 + src.operandBytes
  | .cpx src => 1 + src.operandBytes
  | .cpy src => 1 + src.operandBytes
  | .and src => 1 + src.operandBytes
  | .ora src => 1 + src.operandBytes
  | .eor src => 1 + src.operandBytes
  | .bit src => 1 + src.operandBytes
  | .sta m => 1 + m.operandBytes
  | .stx m => 1 + m.operandBytes
  | .sty m => 1 + m.operandBytes
  | .stz m => 1 + m.operandBytes
  | .tsb m => 1 + m.operandBytes
  | .trb m => 1 + m.operandBytes
  | .inc dst => 1 + dst.operandBytes
  | .dec dst => 1 + dst.operandBytes
  | .asl dst => 1 + dst.operandBytes
  | .lsr dst => 1 + dst.operandBytes
  | .rol dst => 1 + dst.operandBytes
  | .ror dst => 1 + dst.operandBytes
  | .tax => 1
  | .tay => 1
  | .txa => 1
  | .tya => 1
  | .tsx => 1
  | .txs => 1
  | .pha => 1
  | .php => 1
  | .phx => 1
  | .phy => 1
  | .pla => 1
  | .plp => 1
  | .plx => 1
  | .ply => 1
  | .inx => 1
  | .iny => 1
  | .dex => 1
  | .dey => 1
  | .rts => 1
  | .rti => 1
  | .clc => 1
  | .sec => 1
  | .cli => 1
  | .sei => 1
  | .cld => 1
  | .sed => 1
  | .clv => 1
  | .nop => 1
  | .wai => 1
  | .stp => 1
  | .rmb0 _ => 2
  | .rmb1 _ => 2
  | .rmb2 _ => 2
  | .rmb3 _ => 2
  | .rmb4 _ => 2
  | .rmb5 _ => 2
  | .rmb6 _ => 2
  | .rmb7 _ => 2
  | .smb0 _ => 2
  | .smb1 _ => 2
  | .smb2 _ => 2
  | .smb3 _ => 2
  | .smb4 _ => 2
  | .smb5 _ => 2
  | .smb6 _ => 2
  | .smb7 _ => 2
  | .bbr0 _ _ => 3
  | .bbr1 _ _ => 3
  | .bbr2 _ _ => 3
  | .bbr3 _ _ => 3
  | .bbr4 _ _ => 3
  | .bbr5 _ _ => 3
  | .bbr6 _ _ => 3
  | .bbr7 _ _ => 3
  | .bbs0 _ _ => 3
  | .bbs1 _ _ => 3
  | .bbs2 _ _ => 3
  | .bbs3 _ _ => 3
  | .bbs4 _ _ => 3
  | .bbs5 _ _ => 3
  | .bbs6 _ _ => 3
  | .bbs7 _ _ => 3
  | .bpl _ => 2
  | .bmi _ => 2
  | .bvc _ => 2
  | .bvs _ => 2
  | .bcc _ => 2
  | .bcs _ => 2
  | .bne _ => 2
  | .beq _ => 2
  | .bra _ => 2
  | .jmp _ => 3
  | .jsr _ => 3
  | .brk _ => 2
  | .nopU1 _ => 1
  | .nopU2 _ _ => 2
  | .nopU2zp _ _ => 2
  | .nopU3 _ _ => 3

/-- How many of its bytes `step` has fetched when the instruction's own rule starts: all of them, but for BRK, whose signature
byte is never read (R137), and BBRn and BBSn, whose rule reads the tested byte between its two operand fetches
(40_addressing.md R178). -/
def Instr.fetched : Instr → Nat
  | .lda src => 1 + src.operandBytes
  | .ldx src => 1 + src.operandBytes
  | .ldy src => 1 + src.operandBytes
  | .adc src => 1 + src.operandBytes
  | .sbc src => 1 + src.operandBytes
  | .cmp src => 1 + src.operandBytes
  | .cpx src => 1 + src.operandBytes
  | .cpy src => 1 + src.operandBytes
  | .and src => 1 + src.operandBytes
  | .ora src => 1 + src.operandBytes
  | .eor src => 1 + src.operandBytes
  | .bit src => 1 + src.operandBytes
  | .sta m => 1 + m.operandBytes
  | .stx m => 1 + m.operandBytes
  | .sty m => 1 + m.operandBytes
  | .stz m => 1 + m.operandBytes
  | .tsb m => 1 + m.operandBytes
  | .trb m => 1 + m.operandBytes
  | .inc dst => 1 + dst.operandBytes
  | .dec dst => 1 + dst.operandBytes
  | .asl dst => 1 + dst.operandBytes
  | .lsr dst => 1 + dst.operandBytes
  | .rol dst => 1 + dst.operandBytes
  | .ror dst => 1 + dst.operandBytes
  | .tax => 1
  | .tay => 1
  | .txa => 1
  | .tya => 1
  | .tsx => 1
  | .txs => 1
  | .pha => 1
  | .php => 1
  | .phx => 1
  | .phy => 1
  | .pla => 1
  | .plp => 1
  | .plx => 1
  | .ply => 1
  | .inx => 1
  | .iny => 1
  | .dex => 1
  | .dey => 1
  | .rts => 1
  | .rti => 1
  | .clc => 1
  | .sec => 1
  | .cli => 1
  | .sei => 1
  | .cld => 1
  | .sed => 1
  | .clv => 1
  | .nop => 1
  | .wai => 1
  | .stp => 1
  | .rmb0 _ => 2
  | .rmb1 _ => 2
  | .rmb2 _ => 2
  | .rmb3 _ => 2
  | .rmb4 _ => 2
  | .rmb5 _ => 2
  | .rmb6 _ => 2
  | .rmb7 _ => 2
  | .smb0 _ => 2
  | .smb1 _ => 2
  | .smb2 _ => 2
  | .smb3 _ => 2
  | .smb4 _ => 2
  | .smb5 _ => 2
  | .smb6 _ => 2
  | .smb7 _ => 2
  | .bbr0 _ _ => 2
  | .bbr1 _ _ => 2
  | .bbr2 _ _ => 2
  | .bbr3 _ _ => 2
  | .bbr4 _ _ => 2
  | .bbr5 _ _ => 2
  | .bbr6 _ _ => 2
  | .bbr7 _ _ => 2
  | .bbs0 _ _ => 2
  | .bbs1 _ _ => 2
  | .bbs2 _ _ => 2
  | .bbs3 _ _ => 2
  | .bbs4 _ _ => 2
  | .bbs5 _ _ => 2
  | .bbs6 _ _ => 2
  | .bbs7 _ _ => 2
  | .bpl _ => 2
  | .bmi _ => 2
  | .bvc _ => 2
  | .bvs _ => 2
  | .bcc _ => 2
  | .bcs _ => 2
  | .bne _ => 2
  | .beq _ => 2
  | .bra _ => 2
  | .jmp _ => 3
  | .jsr _ => 3
  | .brk _ => 1
  | .nopU1 _ => 1
  | .nopU2 _ _ => 2
  | .nopU2zp _ _ => 2
  | .nopU3 _ _ => 3

/-- Why a list of bytes does not decode: no byte at all, or the instruction that opcode `op` selects is cut short. -/
inductive DecodeError where
  | noBytes
  | truncated (op : Byte)
deriving DecidableEq, Repr

/-- The decoder on a list of bytes: the instruction at its head, and the bytes after it. -/
def decode (b : BitOps) : List Byte → Except DecodeError (Instr × List Byte)
  | [] => .error .noBytes
  | op :: rest =>
    let i := decodeOp b op (rest.getD 0 0) (rest.getD 1 0)
    if rest.length + 1 < i.length then .error (.truncated op) else .ok (i, rest.drop (i.length - 1))

/-- The operand bytes of a memory form, low byte first (R131, R134). -/
def Mem.bytes : Mem → List Byte
  | .abs w | .absx w | .absy w => [lo w, hi w]
  | .zp n | .zpx n | .zpy n | .izx n | .izy n | .izp n => [n]

/-- The opcode of a memory form, from the (form, opcode) pairs of one mnemonic's rule. -/
def Mem.opcode (t : List (Mode × Byte)) (m : Mem) : Option Byte := (t.find? (fun e => e.1 == m.mode)).map (·.2)

/-- Opcode and operand bytes of a memory form; none where the mnemonic has no such form. -/
def Mem.encode (t : List (Mode × Byte)) (m : Mem) : Option (List Byte) := (m.opcode t).map (· :: m.bytes)

/-- Encoding of an immediate (opcode `imm`) or memory operand. -/
def Src.encode (imm : Byte) (t : List (Mode × Byte)) : Src → Option (List Byte)
  | .imm v => some [imm, v]
  | .mem m => m.encode t

/-- Encoding of an accumulator (opcode `acc`) or memory operand. -/
def Dst.encode (acc : Byte) (t : List (Mode × Byte)) : Dst → Option (List Byte)
  | .acc => some [acc]
  | .mem m => m.encode t

/-- Encoding of JMP's three forms (46_control.md R340). -/
def Target.encode : Target → Option (List Byte)
  | .abs w => some [0x4C, lo w, hi w]
  | .ind w => some [0x6C, lo w, hi w]
  | .iax w => some [0x7C, lo w, hi w]

/-- The bytes of an instruction, from the `Encoding` line of its own rule; none for a term that is no row of the table. -/
def encode : Instr → Option (List Byte)
  | .lda src => src.encode 0xA9 [(.zp, 0xA5), (.zpx, 0xB5), (.abs, 0xAD), (.absx, 0xBD), (.absy, 0xB9), (.izx, 0xA1), (.izy, 0xB1), (.izp, 0xB2)]
  | .ldx src => src.encode 0xA2 [(.zp, 0xA6), (.zpy, 0xB6), (.abs, 0xAE), (.absy, 0xBE)]
  | .ldy src => src.encode 0xA0 [(.zp, 0xA4), (.zpx, 0xB4), (.abs, 0xAC), (.absx, 0xBC)]
  | .adc src => src.encode 0x69 [(.zp, 0x65), (.zpx, 0x75), (.abs, 0x6D), (.absx, 0x7D), (.absy, 0x79), (.izx, 0x61), (.izy, 0x71), (.izp, 0x72)]
  | .sbc src => src.encode 0xE9 [(.zp, 0xE5), (.zpx, 0xF5), (.abs, 0xED), (.absx, 0xFD), (.absy, 0xF9), (.izx, 0xE1), (.izy, 0xF1), (.izp, 0xF2)]
  | .cmp src => src.encode 0xC9 [(.zp, 0xC5), (.zpx, 0xD5), (.abs, 0xCD), (.absx, 0xDD), (.absy, 0xD9), (.izx, 0xC1), (.izy, 0xD1), (.izp, 0xD2)]
  | .cpx src => src.encode 0xE0 [(.zp, 0xE4), (.abs, 0xEC)]
  | .cpy src => src.encode 0xC0 [(.zp, 0xC4), (.abs, 0xCC)]
  | .and src => src.encode 0x29 [(.zp, 0x25), (.zpx, 0x35), (.abs, 0x2D), (.absx, 0x3D), (.absy, 0x39), (.izx, 0x21), (.izy, 0x31), (.izp, 0x32)]
  | .ora src => src.encode 0x09 [(.zp, 0x05), (.zpx, 0x15), (.abs, 0x0D), (.absx, 0x1D), (.absy, 0x19), (.izx, 0x01), (.izy, 0x11), (.izp, 0x12)]
  | .eor src => src.encode 0x49 [(.zp, 0x45), (.zpx, 0x55), (.abs, 0x4D), (.absx, 0x5D), (.absy, 0x59), (.izx, 0x41), (.izy, 0x51), (.izp, 0x52)]
  | .bit src => src.encode 0x89 [(.zp, 0x24), (.zpx, 0x34), (.abs, 0x2C), (.absx, 0x3C)]
  | .sta m => m.encode [(.zp, 0x85), (.zpx, 0x95), (.abs, 0x8D), (.absx, 0x9D), (.absy, 0x99), (.izx, 0x81), (.izy, 0x91), (.izp, 0x92)]
  | .stx m => m.encode [(.zp, 0x86), (.zpy, 0x96), (.abs, 0x8E)]
  | .sty m => m.encode [(.zp, 0x84), (.zpx, 0x94), (.abs, 0x8C)]
  | .stz m => m.encode [(.zp, 0x64), (.zpx, 0x74), (.abs, 0x9C), (.absx, 0x9E)]
  | .tsb m => m.encode [(.zp, 0x04), (.abs, 0x0C)]
  | .trb m => m.encode [(.zp, 0x14), (.abs, 0x1C)]
  | .inc dst => dst.encode 0x1A [(.zp, 0xE6), (.zpx, 0xF6), (.abs, 0xEE), (.absx, 0xFE)]
  | .dec dst => dst.encode 0x3A [(.zp, 0xC6), (.zpx, 0xD6), (.abs, 0xCE), (.absx, 0xDE)]
  | .asl dst => dst.encode 0x0A [(.zp, 0x06), (.zpx, 0x16), (.abs, 0x0E), (.absx, 0x1E)]
  | .lsr dst => dst.encode 0x4A [(.zp, 0x46), (.zpx, 0x56), (.abs, 0x4E), (.absx, 0x5E)]
  | .rol dst => dst.encode 0x2A [(.zp, 0x26), (.zpx, 0x36), (.abs, 0x2E), (.absx, 0x3E)]
  | .ror dst => dst.encode 0x6A [(.zp, 0x66), (.zpx, 0x76), (.abs, 0x6E), (.absx, 0x7E)]
  | .tax => some [0xAA]
  | .tay => some [0xA8]
  | .txa => some [0x8A]
  | .tya => some [0x98]
  | .tsx => some [0xBA]
  | .txs => some [0x9A]
  | .pha => some [0x48]
  | .php => some [0x08]
  | .phx => some [0xDA]
  | .phy => some [0x5A]
  | .pla => some [0x68]
  | .plp => some [0x28]
  | .plx => some [0xFA]
  | .ply => some [0x7A]
  | .inx => some [0xE8]
  | .iny => some [0xC8]
  | .dex => some [0xCA]
  | .dey => some [0x88]
  | .rts => some [0x60]
  | .rti => some [0x40]
  | .clc => some [0x18]
  | .sec => some [0x38]
  | .cli => some [0x58]
  | .sei => some [0x78]
  | .cld => some [0xD8]
  | .sed => some [0xF8]
  | .clv => some [0xB8]
  | .nop => some [0xEA]
  | .wai => some [0xCB]
  | .stp => some [0xDB]
  | .rmb0 nn => some [0x07, nn]
  | .rmb1 nn => some [0x17, nn]
  | .rmb2 nn => some [0x27, nn]
  | .rmb3 nn => some [0x37, nn]
  | .rmb4 nn => some [0x47, nn]
  | .rmb5 nn => some [0x57, nn]
  | .rmb6 nn => some [0x67, nn]
  | .rmb7 nn => some [0x77, nn]
  | .smb0 nn => some [0x87, nn]
  | .smb1 nn => some [0x97, nn]
  | .smb2 nn => some [0xA7, nn]
  | .smb3 nn => some [0xB7, nn]
  | .smb4 nn => some [0xC7, nn]
  | .smb5 nn => some [0xD7, nn]
  | .smb6 nn => some [0xE7, nn]
  | .smb7 nn => some [0xF7, nn]
  | .bbr0 nn rr => some [0x0F, nn, rr]
  | .bbr1 nn rr => some [0x1F, nn, rr]
  | .bbr2 nn rr => some [0x2F, nn, rr]
  | .bbr3 nn rr => some [0x3F, nn, rr]
  | .bbr4 nn rr => some [0x4F, nn, rr]
  | .bbr5 nn rr => some [0x5F, nn, rr]
  | .bbr6 nn rr => some [0x6F, nn, rr]
  | .bbr7 nn rr => some [0x7F, nn, rr]
  | .bbs0 nn rr => some [0x8F, nn, rr]
  | .bbs1 nn rr => some [0x9F, nn, rr]
  | .bbs2 nn rr => some [0xAF, nn, rr]
  | .bbs3 nn rr => some [0xBF, nn, rr]
  | .bbs4 nn rr => some [0xCF, nn, rr]
  | .bbs5 nn rr => some [0xDF, nn, rr]
  | .bbs6 nn rr => some [0xEF, nn, rr]
  | .bbs7 nn rr => some [0xFF, nn, rr]
  | .bpl rr => some [0x10, rr]
  | .bmi rr => some [0x30, rr]
  | .bvc rr => some [0x50, rr]
  | .bvs rr => some [0x70, rr]
  | .bcc rr => some [0x90, rr]
  | .bcs rr => some [0xB0, rr]
  | .bne rr => some [0xD0, rr]
  | .beq rr => some [0xF0, rr]
  | .bra rr => some [0x80, rr]
  | .jmp t => t.encode
  | .jsr w => some [0x20, lo w, hi w]
  | .brk ss => some [0x00, ss]
  | .nopU1 op => if isU1Opcode .absent op then some [op] else none
  | .nopU2 op b => if u2Opcodes.contains op then some [op, b] else none
  | .nopU2zp op b => if u2zpOpcodes.contains op then some [op, b] else none
  | .nopU3 op w => if u3Opcodes.contains op then some [op, lo w, hi w] else none

/-- Byte `k` of a table word: bits 8k+7 to 8k of `w`, those at or above `nbits` being 0. -/
def tableByte (nbits w k : Nat) : Byte := BitVec.ofNat 8 (w % 2 ^ nbits / 256 ^ k)

/-- The instruction the decoder reads from an instruction word numbered as spec/opcode_table.json numbers it, with `BITOPS`
= present, as the table's rows of class `bitops` are given (log 17). -/
def decodeTableWord (nbits w : Nat) : Option Instr :=
  match decode .present [tableByte nbits w 0, tableByte nbits w 1, tableByte nbits w 2] with
  | .ok (i, _) => some i
  | .error _ => none

end Sys2Proof
end

