-- ==== Sys2Proof/Machine/Flags.lean ====
section
/-! DEFINITION. The status register's bits and every flag computation: SetNZ, binary and decimal add and subtract,
compare, BIT, shifts and rotates. Each is a function of bytes alone. Rules: spec/10_state.md R35 to R38, spec/43_arith.md
R251 to R256, spec/44_logic_bit.md R283, spec/45_incdec_shift.md R311 to R320. -/

namespace Sys2Proof.Machine

/-- The flags by name (10_state.md R35). -/
inductive Flag where
  | c | z | i | d | b | u | v | n
deriving DecidableEq, Repr

/-- The bit of P that holds a flag (10_state.md R35). -/
def Flag.pos : Flag → Nat
  | .c => 0
  | .z => 1
  | .i => 2
  | .d => 3
  | .b => 4
  | .u => 5
  | .v => 6
  | .n => 7

/-- Read one flag of a status byte. -/
def getF (f : Flag) (p : Byte) : Bool := p.getLsbD f.pos

/-- Write one flag of a status byte. -/
def setF (f : Flag) (v : Bool) (p : Byte) : Byte :=
  if v then p ||| (1#8 <<< f.pos) else p &&& ~~~(1#8 <<< f.pos)

/-- Every write of P forces U = 1 (10_state.md R37). -/
def forceU (p : Byte) : Byte := p ||| 0x20

/-- The copy of P that PHP and BRK push: B = 1, U = 1 (10_state.md R37). -/
def pushedP (p : Byte) : Byte := p ||| 0x30

/-- The value PLP and RTI write to P: U forced to 1, B to 0 (10_state.md R37). -/
def pulledP (v : Byte) : Byte := (v ||| 0x20) &&& 0xEF

/-- `SetNZ(v)` (10_state.md R38). -/
def setNZ (v p : Byte) : Byte := setF .z (v == 0) (setF .n (v.getLsbD 7) p)

/-- Result byte, carry and overflow of an addition or subtraction. -/
structure Alu where
  val : Byte
  carry : Bool
  overflow : Bool
deriving DecidableEq, Repr

/-- `AddBinary(M)` (43_arith.md R251). -/
def addBinary (a m : Byte) (c : Bool) : Alu :=
  let r := a.toNat + m.toNat + c.toNat
  { val := BitVec.ofNat 8 r
    carry := decide (r > 0xFF)
    overflow := (~~~(a ^^^ m) &&& (a ^^^ BitVec.ofNat 8 r)).getLsbD 7 }

/-- The signed reading of a high nibble: `x - 256` if `x >= 0x80`, else `x` (43_arith.md R252). -/
def sgn (x : Nat) : Int := if x ≥ 0x80 then (x : Int) - 256 else x

/-- `AddDecimal(M)`, the 65C02 decimal add, over integers (43_arith.md R252). -/
def addDecimal (a m : Byte) (c : Bool) : Alu :=
  let al0 := a.toNat % 16 + m.toNat % 16 + c.toNat
  let al := if al0 ≥ 0x0A then (al0 + 0x06) % 16 + 0x10 else al0
  let ah := a.toNat / 16 * 16
  let mh := m.toNat / 16 * 16
  let s := sgn ah + sgn mh + (al : Int)
  let r0 := ah + mh + al
  let r := if r0 ≥ 0xA0 then r0 + 0x60 else r0
  { val := BitVec.ofNat 8 r
    carry := decide (r ≥ 0x100)
    overflow := decide (s < -128 ∨ s > 127) }

/-- `SubBinary(M)` (43_arith.md R254). -/
def subBinary (a m : Byte) (c : Bool) : Alu :=
  let r := a.toNat + (m ^^^ 0xFF).toNat + c.toNat
  { val := BitVec.ofNat 8 r
    carry := decide (r > 0xFF)
    overflow := ((a ^^^ m) &&& (a ^^^ BitVec.ofNat 8 r)).getLsbD 7 }

/-- `SubDecimal(M)`, the 65C02 decimal subtract: C and V of the binary subtract (43_arith.md R255). -/
def subDecimal (a m : Byte) (c : Bool) : Alu :=
  let al : Int := (a.toNat % 16 : Nat) - (m.toNat % 16 : Nat) + (c.toNat : Nat) - 1
  let r0 : Int := (a.toNat : Int) - m.toNat + c.toNat - 1
  let r1 := if r0 < 0 then r0 - 0x60 else r0
  let r := if al < 0 then r1 - 0x06 else r1
  { val := BitVec.ofInt 8 r
    carry := (subBinary a m c).carry
    overflow := (subBinary a m c).overflow }

/-- ADC's result, by P.D (43_arith.md R250). -/
def addWith (p a m : Byte) : Alu := if getF .d p then addDecimal a m (getF .c p) else addBinary a m (getF .c p)

/-- SBC's result, by P.D (43_arith.md R253). -/
def subWith (p a m : Byte) : Alu := if getF .d p then subDecimal a m (getF .c p) else subBinary a m (getF .c p)

/-- P after ADC or SBC: C and V of the result, N and Z of the result byte (43_arith.md R251 to R255). -/
def aluP (r : Alu) (p : Byte) : Byte := setNZ r.val (setF .v r.overflow (setF .c r.carry p))

/-- P after `Compare(R, M)` (43_arith.md R256). -/
def compareP (r m p : Byte) : Byte := setNZ (r - m) (setF .c (decide (m.toNat ≤ r.toNat)) p)

/-- P after BIT immediate: only Z (44_logic_bit.md R283). -/
def bitImmP (a m p : Byte) : Byte := setF .z (a &&& m == 0) p

/-- P after BIT on memory: Z, and N and V from M's bits 7 and 6 (44_logic_bit.md R283). -/
def bitMemP (a m p : Byte) : Byte := setF .v (m.getLsbD 6) (setF .n (m.getLsbD 7) (setF .z (a &&& m == 0) p))

/-- A read-modify-write function: the new byte and the new P, from the byte and the old P. -/
abbrev RmwFn := Byte → Byte → Byte × Byte

/-- INC (45_incdec_shift.md R311). -/
def incF : RmwFn := fun m p => (m + 1, setNZ (m + 1) p)

/-- DEC (45_incdec_shift.md R312). -/
def decF : RmwFn := fun m p => (m - 1, setNZ (m - 1) p)

/-- ASL (45_incdec_shift.md R317). -/
def aslF : RmwFn := fun m p =>
  let r := m <<< 1
  (r, setNZ r (setF .c (m.getLsbD 7) p))

/-- LSR (45_incdec_shift.md R318). -/
def lsrF : RmwFn := fun m p =>
  let r := m >>> 1
  (r, setNZ r (setF .c (m.getLsbD 0) p))

/-- ROL: the old carry enters at bit 0 (45_incdec_shift.md R319). -/
def rolF : RmwFn := fun m p =>
  let r := (m <<< 1) ||| (if getF .c p then 0x01 else 0x00)
  (r, setNZ r (setF .c (m.getLsbD 7) p))

/-- ROR: the old carry enters at bit 7 (45_incdec_shift.md R320). -/
def rorF : RmwFn := fun m p =>
  let r := (m >>> 1) ||| (if getF .c p then 0x80 else 0x00)
  (r, setNZ r (setF .c (m.getLsbD 0) p))

/-- TSB: Z from A and M before the byte's bits are set (44_logic_bit.md R284). -/
def tsbF (a : Byte) : RmwFn := fun m p => (m ||| a, setF .z (a &&& m == 0) p)

/-- TRB: Z from A and M before the byte's bits are cleared (44_logic_bit.md R285). -/
def trbF (a : Byte) : RmwFn := fun m p => (m &&& (a ^^^ 0xFF), setF .z (a &&& m == 0) p)

/-- The byte with only bit `n` set: `1 << n`. -/
def bitMask (n : Nat) : Byte := 1#8 <<< n

end Sys2Proof.Machine
end

