-- ==== Sys2Proof/Machine/Memory.lean ====
section
/-! DEFINITION. Storage as plain data, and the banked memory controller over it: the Language-Card state, the two
bus views byte by byte, and the soft-switch state machine. Rules: spec/10_state.md R42 to R46, spec/20_memory.md R71,
R82 to R99. -/

namespace Sys2Proof.Machine

/-- One store: the listed (address, byte) pairs, addresses strictly rising, no byte equal to `Memory.fill`. -/
abbrev Memory := List Host.Cell

/-- What an unlisted address holds: 0x00, which memory reset leaves everywhere (20_memory.md R94; log 13). -/
def Memory.fill : Byte := 0x00

/-- Read one byte of a store. -/
def Memory.read : Memory → Nat → Byte
  | [], _ => Memory.fill
  | (k, v) :: m, a => if k = a then v else Memory.read m a

/-- Write one byte of a store, keeping its canonical form. -/
def Memory.write : Memory → Nat → Byte → Memory
  | [], a, b => if b = Memory.fill then [] else [(a, b)]
  | (k, v) :: m, a, b =>
    if a < k then (if b = Memory.fill then (k, v) :: m else (a, b) :: (k, v) :: m)
    else if a = k then (if b = Memory.fill then m else (a, b) :: m)
    else (k, v) :: Memory.write m a b

/-- Canonical form from address `low` up, below `size`: strictly rising, no entry equal to the fill byte. -/
def Memory.wfFrom (size : Nat) : Nat → Memory → Bool
  | _, [] => true
  | low, (k, v) :: m => decide (low ≤ k) && decide (k < size) && (v != Memory.fill) && Memory.wfFrom size (k + 1) m

/-- The canonical form of a store of `size` bytes. -/
def Memory.wf (size : Nat) (m : Memory) : Bool := Memory.wfFrom size 0 m

/-- The store whose byte `base + k` is the k-th byte of the list, over an earlier store. -/
def Memory.writeAll : Memory → Nat → List Byte → Memory
  | m, _, [] => m
  | m, base, b :: bs => Memory.writeAll (Memory.write m base b) (base + 1) bs

/-- The bank-select field (10_state.md R46). -/
inductive Bank where
  | bank1
  | bank2
deriving DecidableEq, Repr, Inhabited

/-- The Language-Card state, four fields (10_state.md R46). -/
structure LC where
  readEnabled : Bool
  writeEnabled : Bool
  bank : Bank
  latch : Bool
deriving DecidableEq, Repr, Inhabited

/-- The Language-Card state memory reset leaves (20_memory.md R94). -/
def LC.reset : LC := ⟨false, false, .bank1, false⟩

/-- The banked memory model: `ram` (R42), `lc2` (R43), `rom` (R44) and `lc` (R46). -/
structure Banked where
  ram : Memory
  lc2 : Memory
  rom : Option Memory
  lc : LC
deriving DecidableEq, Repr, Inhabited

/-- Number of bytes of `ram` (10_state.md R42). -/
def ramSize : Nat := 65536

/-- Number of bytes of `lc2` (10_state.md R43). -/
def lc2Size : Nat := 4096

/-- Number of bytes of a ROM image (10_state.md R44). -/
def romSize : Nat := 12288

/-- The address of ROM byte 0 (20_memory.md R81: ROM byte `addr - 0xD000` supplies address `addr`). -/
def romBase : Nat := 0xD000

/-- What a window of the read bus may be bound to (20_memory.md R82). -/
inductive ReadStore where
  | ram
  | lcBank2
  | rom
deriving DecidableEq, Repr, Inhabited

/-- What a window of the write bus may be bound to (20_memory.md R82). -/
inductive WriteStore where
  | ram
  | lcBank2
  | writeSink
deriving DecidableEq, Repr, Inhabited

/-- The read binding of window `w` (20_memory.md R83, R85, R88). -/
def LC.readBind (lc : LC) (w : Nat) : ReadStore :=
  if w ≤ 12 then .ram
  else if !lc.readEnabled then .rom
  else if w = 13 ∧ lc.bank = .bank2 then .lcBank2
  else .ram

/-- The write binding of window `w` (20_memory.md R83, R85, R89). -/
def LC.writeBind (lc : LC) (w : Nat) : WriteStore :=
  if w ≤ 12 then .ram
  else if !lc.writeEnabled then .writeSink
  else if w = 13 ∧ lc.bank = .bank2 then .lcBank2
  else .ram

/-- Read the byte of a bound store that address `a` names (20_memory.md R72, R88). An absent ROM reads 0x00 (R44). DESIGN CHOICE
(log 28, unsafe): an address below 0xD000 read from a present ROM, which only a view that `readBus` never returns asks for, gives
ROM byte 0; the spec says which ROM byte supplies an address for 0xD000 to 0xFFFF only (R81). -/
def Banked.readFrom (m : Banked) (st : ReadStore) (a : Word) : Byte :=
  match st with
  | .ram => Memory.read m.ram a.toNat
  | .lcBank2 => Memory.read m.lc2 (offset a)
  | .rom => match m.rom with
    | some r => Memory.read r (a.toNat - romBase)
    | none => 0x00

/-- Write the byte of a bound store that address `a` names (20_memory.md R72, R89). The sink discards (R45). -/
def Banked.writeTo (m : Banked) (st : WriteStore) (a : Word) (v : Byte) : Banked :=
  match st with
  | .ram => { m with ram := Memory.write m.ram a.toNat v }
  | .lcBank2 => { m with lc2 := Memory.write m.lc2 (offset a) v }
  | .writeSink => m

/-- `ReadMap(addr)` (20_memory.md R87, R88). -/
def Banked.readMap (m : Banked) (a : Word) : Byte := m.readFrom (m.lc.readBind (Machine.bank a)) a

/-- `WriteMap(addr, v)` (20_memory.md R87, R89). -/
def Banked.writeMap (m : Banked) (a : Word) (v : Byte) : Banked := m.writeTo (m.lc.writeBind (Machine.bank a)) a v

/-- `LC_SWITCH_BASE` (00_scope.md R11, D8). -/
def lcSwitchBase : Nat := 0xC080

/-- Is the address one of the 16 soft switches: `addr & 0xFFF0 = LC_SWITCH_BASE` (20_memory.md R95)? -/
def isSwitch (a : Word) : Bool := a.toNat / 16 * 16 == lcSwitchBase

/-- Commands 01 and 11 are the write-enable candidates (20_memory.md R95). -/
def isCandidate (a : Word) : Bool := a.toNat % 2 == 1

/-- Commands 00 and 11 map LC RAM for reading, 01 and 10 the ROM (20_memory.md R95, R96). -/
def mapsRam (a : Word) : Bool := a.toNat % 4 == 0 || a.toNat % 4 == 3

/-- Address bit 3 selects Bank1 (set) or Bank2 (clear) (20_memory.md R95, R96). -/
def switchBank (a : Word) : Bank := if a.toNat / 8 % 2 = 1 then .bank1 else .bank2

/-- The whole soft-switch state machine for an access to one of the 16 addresses (20_memory.md R96 to R99). -/
def LC.switched (lc : LC) (a : Word) (isRead : Bool) : LC :=
  { readEnabled := mapsRam a
    bank := switchBank a
    writeEnabled := if isCandidate a then (if isRead && lc.latch then true else lc.writeEnabled) else false
    latch := isCandidate a && isRead }

/-- The Language-Card state after an access to any address (20_memory.md R79, R99). -/
def LC.access (lc : LC) (a : Word) (isRead : Bool) : LC := if isSwitch a then lc.switched a isRead else lc

/-- `applySoftSwitch(addr, isRead) -> bool` (20_memory.md R95, R99). -/
def Banked.applySoftSwitch (m : Banked) (a : Word) (isRead : Bool) : Bool × Banked :=
  (isSwitch a, { m with lc := m.lc.access a isRead })

/-- One CPU bus access, as an external monitor sees it (20_memory.md R100, R101, R103). -/
inductive BusEvent where
  | read (a : Word) (v : Byte)
  | write (a : Word) (v : Byte)
deriving DecidableEq, Repr

/-- What a bus access does to the banked memory: the data transfer with the `lc` before it, then the soft switch
(20_memory.md R100, R101). -/
def BusEvent.apply (e : BusEvent) (m : Banked) : Banked :=
  match e with
  | .read a _ => (m.applySoftSwitch a true).2
  | .write a v => ((m.writeMap a v).applySoftSwitch a false).2

/-- `reset()` of the banked memory: zero all RAM, LC state {read-disabled, write-disabled, Bank1, latch-clear}, ROM
untouched (20_memory.md R94). -/
def Banked.reset (m : Banked) : Banked := { m with ram := [], lc2 := [], lc := LC.reset }

/-- The failure of `loadROM` (20_memory.md R92, 60_exceptions.md R432). -/
inductive HostError where
  | sizeMismatch
deriving DecidableEq, Repr

/-- `loadROM(bytes)`: exactly 12288 bytes, or an error and nothing changed (20_memory.md R92). -/
def Banked.loadROM (m : Banked) (bytes : List Byte) : Except HostError Banked :=
  if bytes.length = romSize then .ok { m with rom := some (Memory.writeAll [] 0 bytes) } else .error .sizeMismatch

end Sys2Proof.Machine
end

