-- ==== Sys2Proof/Config.lean ====
section
/-! DEFINITION. What is fixed for one machine and what the spec leaves open: the OPEN parameters of
spec/00_scope.md R11 as plain data, and the free value for the OS-call context's `dispatch`
(spec/48_os_call_trap.md R412, R419). -/

namespace Sys2Proof

/-- The parameters of one machine (00_scope.md R11, 48_os_call_trap.md R419). State holds them as its field `cfg`; no
step and no host call changes them (log 3). `ctx` says whether an OS-call context is attached. -/
structure Config where
  bitops : BitOps
  undocPolicy : UndocPolicy
  mliTrapAddr : Option Word
  ctx : Bool
  traceCap : Nat
deriving DecidableEq, Repr, Inhabited

/-- The parameters State.reset holds: the default start of 95_test_vectors.md, and a trace of 256 entries (log 3). -/
def Config.default : Config :=
  { bitops := .present, undocPolicy := .nop, mliTrapAddr := some 0xBF00, ctx := false, traceCap := 256 }

/-- What one `dispatch` answers: the status byte, and the memory model after the call, given as the bytes it changed in
`ram` and `lc2` and the `lc` it left; `rom` is unchanged (48_os_call_trap.md R412, D18). -/
structure OsReply where
  status : Byte
  ramWrites : List (Word × Byte)
  lc2Writes : List (BitVec 12 × Byte)
  lc : Machine.LC
deriving DecidableEq, Repr, Inhabited

/-- FREE VALUE (log 4): the answer of the OS-call context to the n-th call, with call number `cc`, parameter block `pb`
and the memory model at the call. It has no body: nothing constrains it, so a statement holds for every `Dispatch`
relation of 48_os_call_trap.md R412. -/
opaque Config.osDispatch (n : Nat) (cc : Byte) (pb : Word) (mem : Machine.Banked) : OsReply

end Sys2Proof
end

