-- ==== Sys2Proof/Machine/State.lean ====
section
/-! DEFINITION. The state of the machine, the reasons a step stops, and the state after reset. INVENTORY.md's State
section lists each field with its rule. Rules: spec/10_state.md R30 to R50. -/

namespace Sys2Proof.Machine

/-- `exec` (10_state.md R39). -/
inductive ExecState where
  | running
  | waiting
  | stopped
deriving DecidableEq, Repr, Inhabited

/-- The reasons a step ends in a fault. -/
inductive Fault where
  /-- Raised by a JSR to `MLI_TRAP_ADDR` while no OS-call context is attached (48_os_call_trap.md R414), and by every step
  of a state whose `fault` field holds it (10_state.md R40). Safe: the spec's own outcome, with the state before the step
  kept (60_exceptions.md R430). -/
  | noMLIContext
deriving DecidableEq, Repr

/-- The reasons a step has no meaning. -/
inductive Refusal where
  /-- Raised by exec's arm of an instruction with no meaning yet; none is left. Safe. -/
  | notModelled (mnemonic : String)
  /-- Raised by an unassigned opcode under `UNDOC_POLICY` = refuse, naming the opcode and its address
  (47_flags_system.md R395, 60_exceptions.md R430), and by every step of a state that keeps that mark. Safe: never under the
  spec's default policy, and it errs toward unprovable. -/
  | undocumented (op : Byte) (addr : Word)
  /-- Raised by a step before the first CPU reset (70_reset_and_hazards.md R473). Safe: never from State.reset. -/
  | notReset
deriving DecidableEq, Repr

/-- One entry of the control-flow trace (10_state.md R47). -/
structure TraceEntry where
  src : Word
  dst : Word
  count : Nat
deriving DecidableEq, Repr, Inhabited

/-- The state. The last three fields are not the spec's state: `cycles` and `bus` are the outputs of the last call (log 5),
`osCalls` numbers the free values of the OS-call context (log 4). -/
structure State where
  /-- Program counter (R30). -/
  pc : Word
  /-- Accumulator (R31). -/
  a : Byte
  /-- Index register X (R32). -/
  x : Byte
  /-- Index register Y (R33). -/
  y : Byte
  /-- Stack pointer (R34). -/
  sp : Byte
  /-- Status register (R35 to R37). -/
  p : Byte
  /-- Execution state (R39). -/
  execState : ExecState
  /-- Fault state (R40). -/
  fault : Option Fault
  /-- The refusal mark (47_flags_system.md R395). -/
  refusal : Option Refusal
  /-- Has a CPU reset happened since construction (70_reset_and_hazards.md R473)? -/
  booted : Bool
  /-- The banked memory model: `ram`, `lc2`, `rom`, `lc` (R42 to R46). -/
  mem : Banked
  /-- The control-flow trace, newest entry first (R47; log 19). -/
  trace : List TraceEntry
  /-- The machine's parameters (00_scope.md R11; log 3). -/
  cfg : Config
  /-- The cycle count the last call returned (00_scope.md R14). -/
  cycles : Nat
  /-- The bus events of the last call, in order (20_memory.md R103). -/
  bus : List BusEvent
  /-- How many OS calls have been dispatched: the model's own field (log 4). -/
  osCalls : Nat
deriving DecidableEq, Repr

/-- The machine right after reset: constructed, no ROM loaded, memory reset, CPU reset (70_reset_and_hazards.md R470, R471,
R474; 10_state.md R50). PC is the word at 0xFFFC through the read bus, 0x0000 with no ROM. A, X and Y have no value in the
spec and are zero here (log 1); the two bus events are the vector reads of the CPU reset. -/
def State.reset : State :=
  { pc := 0x0000, a := 0x00, x := 0x00, y := 0x00, sp := 0xFF, p := 0x24
    execState := .running, fault := none, refusal := none, booted := true
    mem := { ram := [], lc2 := [], rom := none, lc := LC.reset }
    trace := [], cfg := Config.default, cycles := 0
    bus := [.read 0xFFFC 0x00, .read 0xFFFD 0x00], osCalls := 0 }

end Sys2Proof.Machine
end

