-- ==== Sys2Proof/Machine/Ops.lean ====
section
/-! DEFINITION. The operations every instruction is built from: register writes, CPU bus accesses, fetches, 16-bit reads, the
stack, the control-flow trace, and the entry and return of the software trap. Rules: spec/10_state.md R37, R48,
spec/20_memory.md R84, R100, R101, spec/40_addressing.md R160, R166, spec/42_stack.md R230, R231, spec/46_control.md R343,
R344, spec/60_exceptions.md R435, R436. -/

namespace Sys2Proof.Machine

/-- How a step of this machine ends. -/
abbrev Result := Host.Outcome State Fault Refusal

/-- `PC <- v`. -/
def State.setPc (s : State) (v : Word) : State := { s with pc := v }

/-- `A <- v`. -/
def State.setA (s : State) (v : Byte) : State := { s with a := v }

/-- `X <- v`. -/
def State.setX (s : State) (v : Byte) : State := { s with x := v }

/-- `Y <- v`. -/
def State.setY (s : State) (v : Byte) : State := { s with y := v }

/-- `SP <- v`. -/
def State.setSp (s : State) (v : Byte) : State := { s with sp := v }

/-- `P <- v`: every write of P forces U = 1 (10_state.md R37). -/
def State.setP (s : State) (v : Byte) : State := { s with p := forceU v }

/-- `exec <- v`. -/
def State.setExec (s : State) (v : ExecState) : State := { s with execState := v }

/-- Write the trace. -/
def State.setTrace (s : State) (v : List TraceEntry) : State := { s with trace := v }

/-- The value the step returns (00_scope.md R14). -/
def State.setCycles (s : State) (n : Nat) : State := { s with cycles := n }

/-- The outputs of a call that has returned nothing and made no bus access yet. -/
def State.clearOutputs (s : State) : State := { s with cycles := 0, bus := [] }

/-- Make one CPU bus access: its effect on the banked memory, and its event for the bus monitor (20_memory.md R100, R101,
R103). -/
def State.emit (s : State) (e : BusEvent) : State := { s with mem := e.apply s.mem, bus := s.bus ++ [e] }

/-- Set N and Z from a result (10_state.md R38). -/
def State.setNZ (s : State) (v : Byte) : State := s.setP (Machine.setNZ v s.p)

/-- `MemRead(addr, 1)` (20_memory.md R100): the byte, read with the `lc` before the access, and the state after it. -/
def memRead (a : Word) (s : State) : Byte × State := (s.mem.readMap a, s.emit (.read a (s.mem.readMap a)))

/-- `MemWrite(addr, 1, v)` (20_memory.md R101). -/
def memWrite (a : Word) (v : Byte) (s : State) : State := s.emit (.write a v)

/-- `Fetch()` (40_addressing.md R160). -/
def fetch (s : State) : Byte × State :=
  let r := memRead s.pc s
  (r.1, r.2.setPc (s.pc + 1))

/-- `n` fetches in a row, their bytes discarded. -/
def fetchBytes : Nat → State → State
  | 0, s => s
  | n + 1, s => fetchBytes n (fetch s).2

/-- The instruction at PC, decoded from the bytes the read bus shows there: the bytes that the fetches of the step read
(log 10). -/
def instrAt (s : State) : Instr :=
  decodeOp s.cfg.bitops (s.mem.readMap s.pc) (s.mem.readMap (s.pc + 1)) (s.mem.readMap (s.pc + 2))

/-- The address of the opcode byte, from PC while the rule of `i` runs (40_addressing.md R162's `start`). -/
def startOf (i : Instr) (s : State) : Word := s.pc - BitVec.ofNat 16 i.fetched

/-- `Read16(addr)`: low byte first, then `addr + 1` modulo 2^16 (20_memory.md R84). -/
def read16 (a : Word) (s : State) : Word × State :=
  let l := memRead a s
  let h := memRead (a + 1) l.2
  (join h.1 l.1, h.2)

/-- `ZpRead16(z)`: the high byte from `(z + 1) mod 256` (40_addressing.md R166). -/
def zpRead16 (z : Byte) (s : State) : Word × State :=
  let l := memRead (zext z) s
  let h := memRead (zext (z + 1)) l.2
  (join h.1 l.1, h.2)

/-- `STACK_BASE + SP`, `STACK_BASE` = 0x0100 (10_state.md R34, D5). -/
def stackAddr (sp : Byte) : Word := join 0x01 sp

/-- `Push(v)` (42_stack.md R230). -/
def push (v : Byte) (s : State) : State := (memWrite (stackAddr s.sp) v s).setSp (s.sp - 1)

/-- `Pull()` (42_stack.md R231). -/
def pull (s : State) : Byte × State := memRead (stackAddr (s.sp + 1)) (s.setSp (s.sp + 1))

/-- Push a 16-bit word, high byte first (46_control.md R341, R343). -/
def pushWord (w : Word) (s : State) : State := push (lo w) (push (hi w) s)

/-- Pull a 16-bit word, low byte first (46_control.md R342, R344). -/
def pullWord (s : State) : Word × State :=
  let l := pull s
  let h := pull l.2
  (join h.1 l.1, h.2)

/-- Append a new newest entry; over the capacity, drop the oldest (10_state.md R48). -/
def pushEntry (cap : Nat) (e : TraceEntry) (t : List TraceEntry) : List TraceEntry :=
  if (e :: t).length > cap then (e :: t).dropLast else e :: t

/-- Both endpoints in the top 2KB (10_state.md R48). -/
def filtered (src dst : Word) : Bool := decide (0xF800 ≤ src.toNat) && decide (0xF800 ≤ dst.toNat)

/-- The trace after a transition: filtered, compressed into the newest entry, or appended (10_state.md R48). -/
def recordIn (cap : Nat) (src dst : Word) (t : List TraceEntry) : List TraceEntry :=
  if filtered src dst then t
  else match t with
    | [] => pushEntry cap ⟨src, dst, 1⟩ []
    | e :: es =>
      if e.src = src ∧ e.dst = dst then { e with count := e.count + 1 } :: es
      else pushEntry cap ⟨src, dst, 1⟩ (e :: es)

/-- `Record(from, to)` (10_state.md R48). -/
def record (src dst : Word) (s : State) : State := s.setTrace (recordIn s.cfg.traceCap src dst s.trace)

/-- `PC <- target; Record(start, target)`, the end of every explicit transfer (46_control.md). -/
def transfer (start target : Word) (s : State) : State := record start target (s.setPc target)

/-- `RESET_VECTOR` (00_scope.md R11, 20_memory.md R81, D6). -/
def resetVector : Word := 0xFFFC

/-- `BRK_VECTOR` (00_scope.md R11, 20_memory.md R81, D30). -/
def brkVector : Word := 0xFFFE

/-- Taking the software trap (60_exceptions.md R435, 46_control.md R343): the return address `start + 2` and `P | 0x30` go to
the stack, I is set and D cleared, and PC comes from the BRK vector through the read bus. -/
def enterTrap (start : Word) (s : State) : State :=
  let s1 := pushWord (start + 2) s
  let s2 := push (pushedP s1.p) s1
  let s3 := s2.setP (setF .d false (setF .i true s2.p))
  let v := read16 brkVector s3
  transfer start v.1 v.2

/-- Returning from it (60_exceptions.md R436, 46_control.md R344): P with B = 0 and U = 1, then PC, nothing added. -/
def returnFromTrap (start : Word) (s : State) : State :=
  let q := pull s
  let w := pullWord (q.2.setP (pulledP q.1))
  transfer start w.1 w.2

/-- Place one byte where the read bus reads address `a`, without a bus access: the image loaded from outside that
`State.withFetchWord` stands for (log 18). An absent ROM becomes a present one. -/
def Banked.placeByte (m : Banked) (a : Word) (v : Byte) : Banked :=
  match m.lc.readBind (Machine.bank a) with
  | .ram => { m with ram := Memory.write m.ram a.toNat v }
  | .lcBank2 => { m with lc2 := Memory.write m.lc2 (offset a) v }
  | .rom => { m with rom := some (Memory.write (m.rom.getD []) (a.toNat - romBase) v) }

/-- Place the three bytes of an instruction word at `a`, `a + 1`, `a + 2`. -/
def Banked.placeWord (m : Banked) (a : Word) (b0 b1 b2 : Byte) : Banked :=
  ((m.placeByte a b0).placeByte (a + 1) b1).placeByte (a + 2) b2

end Sys2Proof.Machine
end

