-- ==== Sys2Proof/Machine/Operands.lean ====
section
/-! DEFINITION. Every operand form: effective addresses with their pointer reads, the operand of a reading instruction with
its page-cross dummy read, and the read-modify-write pattern with its dummy read. Rules: spec/40_addressing.md R164 to R179,
spec/45_incdec_shift.md R310. -/

namespace Sys2Proof.Machine

/-- What an addressing mode computes: the EA, the page-crossed flag (R172), and the un-carried address (R168, R170), which
is the EA itself in a mode with no carry. -/
structure Ea where
  addr : Word
  crossed : Bool
  uncarried : Word
deriving DecidableEq, Repr

/-- A form that cannot cross a page. -/
def Ea.plain (a : Word) : Ea := ⟨a, false, a⟩

/-- Base plus index with the carry into the high byte (R168, R170, R172). -/
def Ea.indexed (base : Word) (r : Byte) : Ea :=
  { addr := base + zext r
    crossed := decide ((lo base).toNat + r.toNat > 0xFF)
    uncarried := join (hi base) (lo base + r) }

/-- The effective address of each memory form, and the state after its pointer reads (R164 to R171). -/
def resolve (m : Mem) (s : State) : Ea × State :=
  match m with
  | .zp nn => (.plain (zext nn), s)
  | .zpx nn => (.plain (zext (nn + s.x)), s)
  | .zpy nn => (.plain (zext (nn + s.y)), s)
  | .abs w => (.plain w, s)
  | .absx w => (.indexed w s.x, s)
  | .absy w => (.indexed w s.y, s)
  | .izx nn => let q := zpRead16 (nn + s.x) s; (.plain q.1, q.2)
  | .izy nn => let q := zpRead16 nn s; (.indexed q.1 s.y, q.2)
  | .izp nn => let q := zpRead16 nn s; (.plain q.1, q.2)

/-- A byte read, whether its indexing crossed a page, and the state after the accesses. -/
structure ReadResult where
  val : Byte
  crossed : Bool
  state : State
deriving DecidableEq, Repr

/-- The read class on memory: pointer reads, the page-cross dummy read at the un-carried address, the read of EA (R175
rows 3, 4, 5a; R176). -/
def readMem (m : Mem) (s : State) : ReadResult :=
  let e := resolve m s
  let s1 := if e.1.crossed then (memRead e.1.uncarried e.2).2 else e.2
  let r := memRead e.1.addr s1
  ⟨r.1, e.1.crossed, r.2⟩

/-- The operand of a reading instruction: immediate (R132, R179) or memory. -/
def readSrc (src : Src) (s : State) : ReadResult :=
  match src with
  | .imm v => ⟨v, false, s⟩
  | .mem m => readMem m s

/-- The write class: pointer reads, then the write of EA, with no dummy read (R175 rows 3, 5b; R176). -/
def writeMem (m : Mem) (v : Byte) (s : State) : State :=
  let e := resolve m s
  memWrite e.1.addr v e.2

/-- The read-modify-write pattern on memory: read EA, dummy read of the last fetched instruction byte at `next - 1`, write
EA (R175 row 5c, R177, R310). `f` gives the byte to write and the state with its flags. -/
def rmwMem (f : Byte → State → Byte × State) (m : Mem) (s : State) : State :=
  let e := resolve m s
  let r := memRead e.1.addr e.2
  let s1 := (memRead (r.2.pc - 1) r.2).2
  let w := f r.1 s1
  memWrite e.1.addr w.1 w.2

/-- A read-modify-write function applied to a state's P. -/
def applyRmw (f : RmwFn) (v : Byte) (s : State) : Byte × State := ((f v s.p).1, s.setP (f v s.p).2)

/-- The read-modify-write operand: the accumulator, with no data access, or memory (R179, R310). -/
def rmwDst (f : RmwFn) (dst : Dst) (s : State) : State :=
  match dst with
  | .acc => let w := applyRmw f s.a s; w.2.setA w.1
  | .mem m => rmwMem (applyRmw f) m s

/-- What a JMP form computes: the target, and the page-crossed flag it reports (R172, R174). -/
structure JumpTarget where
  addr : Word
  crossed : Bool
deriving DecidableEq, Repr

/-- The target of JMP, its page-crossed flag, and the state after its pointer reads (R167, R173, R174). Only (abs,X) adds an
index, to the address of the pointer; its flag costs no cycle and causes no dummy read. -/
def resolveTarget (t : Target) (s : State) : JumpTarget × State :=
  match t with
  | .abs w => (⟨w, false⟩, s)
  | .ind w => let q := read16 w s; (⟨q.1, false⟩, q.2)
  | .iax w =>
    let e := Ea.indexed w s.x
    let q := read16 e.addr s
    (⟨q.1, e.crossed⟩, q.2)

end Sys2Proof.Machine
end

