-- ==== Sys2Proof/Machine/Timing.lean ====
section
/-! DEFINITION. Nominal cycle counts: the `cycles` column of spec/30_encoding.md section 7 and the penalties of R140. A term
that is no row of the opcode table has no count; it is given 0 and is never decoded (log 16). -/

namespace Sys2Proof.Machine

/-- The read class on memory. -/
def readCycles : Mem → Nat
  | .zp _ => 3
  | .zpx _ | .zpy _ | .abs _ | .absx _ | .absy _ => 4
  | .izy _ | .izp _ => 5
  | .izx _ => 6

/-- The read class. -/
def srcCycles : Src → Nat
  | .imm _ => 2
  | .mem m => readCycles m

/-- The write class. -/
def writeCycles : Mem → Nat
  | .zp _ => 3
  | .zpx _ | .zpy _ | .abs _ => 4
  | .absx _ | .absy _ | .izp _ => 5
  | .izx _ | .izy _ => 6

/-- The read-modify-write class on memory; `absx` is INC's and DEC's 7 or the shifts' 6. -/
def rmwCycles (absx : Nat) : Mem → Nat
  | .zp _ => 5
  | .zpx _ | .abs _ => 6
  | .absx _ => absx
  | .zpy _ | .absy _ | .izx _ | .izy _ | .izp _ => 0

/-- The read-modify-write class. -/
def dstCycles (absx : Nat) : Dst → Nat
  | .acc => 2
  | .mem m => rmwCycles absx m

/-- The base count of an instruction (30_encoding.md section 7, R140, R142). -/
def baseCycles : Instr → Nat
  | .lda src => srcCycles src
  | .ldx src => srcCycles src
  | .ldy src => srcCycles src
  | .adc src => srcCycles src
  | .sbc src => srcCycles src
  | .cmp src => srcCycles src
  | .cpx src => srcCycles src
  | .cpy src => srcCycles src
  | .and src => srcCycles src
  | .ora src => srcCycles src
  | .eor src => srcCycles src
  | .bit src => srcCycles src
  | .sta m => writeCycles m
  | .stx m => writeCycles m
  | .sty m => writeCycles m
  | .stz m => writeCycles m
  | .tsb m => rmwCycles 6 m
  | .trb m => rmwCycles 6 m
  | .inc dst => dstCycles 7 dst
  | .dec dst => dstCycles 7 dst
  | .asl dst => dstCycles 6 dst
  | .lsr dst => dstCycles 6 dst
  | .rol dst => dstCycles 6 dst
  | .ror dst => dstCycles 6 dst
  | .rmb0 _ => 5
  | .rmb1 _ => 5
  | .rmb2 _ => 5
  | .rmb3 _ => 5
  | .rmb4 _ => 5
  | .rmb5 _ => 5
  | .rmb6 _ => 5
  | .rmb7 _ => 5
  | .smb0 _ => 5
  | .smb1 _ => 5
  | .smb2 _ => 5
  | .smb3 _ => 5
  | .smb4 _ => 5
  | .smb5 _ => 5
  | .smb6 _ => 5
  | .smb7 _ => 5
  | .bbr0 _ _ => 5
  | .bbr1 _ _ => 5
  | .bbr2 _ _ => 5
  | .bbr3 _ _ => 5
  | .bbr4 _ _ => 5
  | .bbr5 _ _ => 5
  | .bbr6 _ _ => 5
  | .bbr7 _ _ => 5
  | .bbs0 _ _ => 5
  | .bbs1 _ _ => 5
  | .bbs2 _ _ => 5
  | .bbs3 _ _ => 5
  | .bbs4 _ _ => 5
  | .bbs5 _ _ => 5
  | .bbs6 _ _ => 5
  | .bbs7 _ _ => 5
  | .tax => 2
  | .tay => 2
  | .txa => 2
  | .tya => 2
  | .tsx => 2
  | .txs => 2
  | .inx => 2
  | .iny => 2
  | .dex => 2
  | .dey => 2
  | .clc => 2
  | .sec => 2
  | .cli => 2
  | .sei => 2
  | .cld => 2
  | .sed => 2
  | .clv => 2
  | .nop => 2
  | .pha => 3
  | .php => 3
  | .phx => 3
  | .phy => 3
  | .wai => 3
  | .stp => 3
  | .pla => 4
  | .plp => 4
  | .plx => 4
  | .ply => 4
  | .rts => 6
  | .rti => 6
  | .brk _ => 7
  | .jsr _ => 6
  | .jmp (.abs _) => 3
  | .jmp (.ind _) => 6
  | .jmp (.iax _) => 6
  | .bpl _ => 2
  | .bmi _ => 2
  | .bvc _ => 2
  | .bvs _ => 2
  | .bcc _ => 2
  | .bcs _ => 2
  | .bne _ => 2
  | .beq _ => 2
  | .bra _ => 3
  | .nopU1 _ => 1
  | .nopU2 _ _ => 2
  | .nopU2zp op _ => if op = 0x44 then 3 else 4
  | .nopU3 op _ => if op = 0x5C then 8 else 4

/-- `+1 if page crossed` (R140). -/
def crossPenalty (crossed : Bool) : Nat := if crossed then 1 else 0

/-- `+1 if P.D = 1`, for ADC and SBC (R140). -/
def decimalPenalty (p : Byte) : Nat := if getF .d p then 1 else 0

/-- The page-cross penalty of ASL, LSR, ROL and ROR: only their absolute,X form pays one (R140, R310). -/
def shiftPenalty (dst : Dst) (s : State) : Nat :=
  match dst with
  | .mem (.absx w) => crossPenalty (Ea.indexed w s.x).crossed
  | _ => 0

/-- The penalties of a taken branch (R140): `taken`, and one more when the target's page is not the next instruction's. -/
def branchPenalty (taken : Nat) (target next : Word) : Nat := taken + (if hi target = hi next then 0 else 1)

end Sys2Proof.Machine
end

