-- ==== Sys2Proof/Machine/LoadStore.lean ====
section
/-! DEFINITION. Loads, stores and register transfers. Rules: spec/41_load_store_transfer.md R200 to R212. -/

namespace Sys2Proof.Machine

/-- The end of a rule with no penalty: the step returns the base count (30_encoding.md R140). -/
def finish (i : Instr) (s : State) : Result := .next (s.setCycles (baseCycles i))

/-- The read class: fetch the operand, apply `f` to it and the state after the read, and pay the page-cross penalty
(40_addressing.md R175, 30_encoding.md R140). -/
def readInstr (i : Instr) (src : Src) (f : Byte → State → State) (s : State) : Result :=
  let r := readSrc src s
  .next ((f r.val r.state).setCycles (baseCycles i + crossPenalty r.crossed))

/-- LDA: `A <- M; SetNZ(A)` (R200). -/
def execLda (src : Src) (s : State) : Result :=
  readInstr (.lda src) src (fun v t => (t.setA v).setNZ v) s

/-- LDX: `X <- M; SetNZ(X)` (R201). -/
def execLdx (src : Src) (s : State) : Result :=
  readInstr (.ldx src) src (fun v t => (t.setX v).setNZ v) s

/-- LDY: `Y <- M; SetNZ(Y)` (R202). -/
def execLdy (src : Src) (s : State) : Result :=
  readInstr (.ldy src) src (fun v t => (t.setY v).setNZ v) s

/-- STA: `MemWrite(EA, 1, A)` (R203). -/
def execSta (m : Mem) (s : State) : Result :=
  finish (.sta m) (writeMem m s.a s)

/-- STX: `MemWrite(EA, 1, X)` (R204). -/
def execStx (m : Mem) (s : State) : Result :=
  finish (.stx m) (writeMem m s.x s)

/-- STY: `MemWrite(EA, 1, Y)` (R205). -/
def execSty (m : Mem) (s : State) : Result :=
  finish (.sty m) (writeMem m s.y s)

/-- STZ: `MemWrite(EA, 1, 0x00)` (R206). -/
def execStz (m : Mem) (s : State) : Result :=
  finish (.stz m) (writeMem m 0x00 s)

/-- TAX: `X <- A; SetNZ(X)` (R207). -/
def execTax (s : State) : Result :=
  finish .tax ((s.setX s.a).setNZ s.a)

/-- TAY: `Y <- A; SetNZ(Y)` (R208). -/
def execTay (s : State) : Result :=
  finish .tay ((s.setY s.a).setNZ s.a)

/-- TXA: `A <- X; SetNZ(A)` (R209). -/
def execTxa (s : State) : Result :=
  finish .txa ((s.setA s.x).setNZ s.x)

/-- TYA: `A <- Y; SetNZ(A)` (R210). -/
def execTya (s : State) : Result :=
  finish .tya ((s.setA s.y).setNZ s.y)

/-- TSX: `X <- SP; SetNZ(X)` (R211). -/
def execTsx (s : State) : Result :=
  finish .tsx ((s.setX s.sp).setNZ s.sp)

/-- TXS: `SP <- X`; it sets no flag (R212). -/
def execTxs (s : State) : Result :=
  finish .txs (s.setSp s.x)


end Sys2Proof.Machine
end

