-- ==== Sys2Proof/Machine/Arith.lean ====
section
/-! DEFINITION. Arithmetic and compare. Rules: spec/43_arith.md R250 to R262. -/

namespace Sys2Proof.Machine

/-- ADC and SBC: A and the flags from `alu`, one cycle more in decimal mode, by P.D at the start (43_arith.md R250, R253;
30_encoding.md R140). -/
def arithInstr (i : Instr) (src : Src) (alu : Byte → Byte → Byte → Alu) (s : State) : Result :=
  let r := readSrc src s
  let t := r.state
  let o := alu t.p t.a r.val
  .next (((t.setA o.val).setP (aluP o t.p)).setCycles (baseCycles i + crossPenalty r.crossed + decimalPenalty s.p))

/-- ADC (R250). -/
def execAdc (src : Src) (s : State) : Result :=
  arithInstr (.adc src) src addWith s

/-- SBC (R253). -/
def execSbc (src : Src) (s : State) : Result :=
  arithInstr (.sbc src) src subWith s

/-- CMP: `Compare(A, M)` (R257, R256). -/
def execCmp (src : Src) (s : State) : Result :=
  readInstr (.cmp src) src (fun v t => t.setP (compareP t.a v t.p)) s

/-- CPX: `Compare(X, M)` (R258, R256). -/
def execCpx (src : Src) (s : State) : Result :=
  readInstr (.cpx src) src (fun v t => t.setP (compareP t.x v t.p)) s

/-- CPY: `Compare(Y, M)` (R259, R256). -/
def execCpy (src : Src) (s : State) : Result :=
  readInstr (.cpy src) src (fun v t => t.setP (compareP t.y v t.p)) s


end Sys2Proof.Machine
end

