-- ==== Sys2Proof/Machine/OsCall.lean ====
section
/-! DEFINITION. The OS-call (MLI) trap. Rules: spec/48_os_call_trap.md R410 to R420. -/

namespace Sys2Proof.Machine

/-- What the trapped JSR reads at its call site: call number and parameter block (R411). -/
structure OsCall where
  number : Byte
  paramBlock : Word
deriving DecidableEq, Repr

/-- The inline descriptor at `start + 3`, `start + 4`, `start + 5`, read as CPU reads in this order (R411). -/
def readDescriptor (start : Word) (s : State) : OsCall × State :=
  let cc := memRead (start + 3) s
  let pl := memRead (start + 4) cc.2
  let ph := memRead (start + 5) pl.2
  (⟨cc.1, join ph.1 pl.1⟩, ph.2)

/-- Bytes the context wrote in `ram`. -/
def writeRam : List (Word × Byte) → Memory → Memory
  | [], m => m
  | (a, v) :: l, m => writeRam l (Memory.write m a.toNat v)

/-- Bytes the context wrote in `lc2`. -/
def writeLc2 : List (BitVec 12 × Byte) → Memory → Memory
  | [], m => m
  | (a, v) :: l, m => writeLc2 l (Memory.write m a.toNat v)

/-- The memory model after a call: `ram`, `lc2` and `lc` as the context left them, `rom` unchanged (R412). -/
def OsReply.applyTo (r : OsReply) (m : Banked) : Banked :=
  { m with ram := writeRam r.ramWrites m.ram, lc2 := writeLc2 r.lc2Writes m.lc2, lc := r.lc }

/-- The result of the call (R413): A and C from the status, PC = start + 6, the transition recorded; nothing pushed (R418). -/
def osReturn (start : Word) (r : OsReply) (s : State) : State :=
  let t := { s with mem := OsReply.applyTo r s.mem, osCalls := s.osCalls + 1 }
  transfer start (start + 6) ((t.setA r.status).setP (setF .c (r.status != 0) t.p))

/-- The OS-call trap (R410 to R418): the inline reads, then the context. With none attached the step is a fault and the state
before the step stands (R414). -/
def osTrap (i : Instr) (start : Word) (s : State) : Result :=
  let d := readDescriptor start s
  if s.cfg.ctx then
    .next ((osReturn start (Config.osDispatch d.2.osCalls d.1.number d.1.paramBlock d.2.mem) d.2).setCycles (baseCycles i))
  else .fault .noMLIContext

/-- A JSR to this target is trapped (R410). -/
def isTrapTarget (cfg : Config) (target : Word) : Bool := cfg.mliTrapAddr == some target


end Sys2Proof.Machine
end

