-- ==== Sys2Proof/Machine/Control.lean ====
section
/-! DEFINITION. Control transfer. Rules: spec/46_control.md R340 to R362. -/

namespace Sys2Proof.Machine

/-- JMP (R340). -/
def execJmp (t : Target) (s : State) : Result :=
  let r := resolveTarget t s
  finish (.jmp t) (transfer (startOf (.jmp t) s) r.1.addr r.2)

/-- JSR (R341): the trap check comes before any push; the pushed word is `next - 1`. -/
def execJsr (target : Word) (s : State) : Result :=
  let start := startOf (.jsr target) s
  if isTrapTarget s.cfg target then osTrap (.jsr target) start s
  else finish (.jsr target) (transfer start target (pushWord (s.pc - 1) s))

/-- RTS (R342): the pulled word plus one. -/
def execRts (s : State) : Result :=
  let w := pullWord s
  finish .rts (transfer (startOf .rts s) (w.1 + 1) w.2)

/-- BRK (R343): the signature byte is not read. -/
def execBrk (ss : Byte) (s : State) : Result :=
  finish (.brk ss) (enterTrap (startOf (.brk ss) s) s)

/-- RTI (R344). -/
def execRti (s : State) : Result :=
  finish .rti (returnFromTrap (startOf .rti s) s)

/-- The common branch operation (R350), PC being `next`: `taken` is the cycle a taken branch adds, 0 for BRA. -/
def branch (i : Instr) (start : Word) (cond : Bool) (taken : Nat) (rr : Byte) (s : State) : Result :=
  let target := s.pc + sext rr
  if cond then .next ((transfer start target s).setCycles (baseCycles i + branchPenalty taken target s.pc))
  else finish i s

/-- BPL: cond `P.N = 0` (R351). -/
def execBpl (rr : Byte) (s : State) : Result :=
  branch (.bpl rr) (startOf (.bpl rr) s) (!getF .n s.p) 1 rr s

/-- BMI: cond `P.N = 1` (R352). -/
def execBmi (rr : Byte) (s : State) : Result :=
  branch (.bmi rr) (startOf (.bmi rr) s) (getF .n s.p) 1 rr s

/-- BVC: cond `P.V = 0` (R353). -/
def execBvc (rr : Byte) (s : State) : Result :=
  branch (.bvc rr) (startOf (.bvc rr) s) (!getF .v s.p) 1 rr s

/-- BVS: cond `P.V = 1` (R354). -/
def execBvs (rr : Byte) (s : State) : Result :=
  branch (.bvs rr) (startOf (.bvs rr) s) (getF .v s.p) 1 rr s

/-- BCC: cond `P.C = 0` (R355). -/
def execBcc (rr : Byte) (s : State) : Result :=
  branch (.bcc rr) (startOf (.bcc rr) s) (!getF .c s.p) 1 rr s

/-- BCS: cond `P.C = 1` (R356). -/
def execBcs (rr : Byte) (s : State) : Result :=
  branch (.bcs rr) (startOf (.bcs rr) s) (getF .c s.p) 1 rr s

/-- BNE: cond `P.Z = 0` (R357). -/
def execBne (rr : Byte) (s : State) : Result :=
  branch (.bne rr) (startOf (.bne rr) s) (!getF .z s.p) 1 rr s

/-- BEQ: cond `P.Z = 1` (R358). -/
def execBeq (rr : Byte) (s : State) : Result :=
  branch (.beq rr) (startOf (.beq rr) s) (getF .z s.p) 1 rr s

/-- BRA: cond true, its base count includes the taken cycle (R359). -/
def execBra (rr : Byte) (s : State) : Result :=
  branch (.bra rr) (startOf (.bra rr) s) true 0 rr s

/-- BBRn and BBSn (R360, R361; 40_addressing.md R178): the tested byte is read between the two operand fetches; then the common
branch with cond `M[n] = want`. -/
def bitBranch (i : Instr) (n : Nat) (want : Bool) (nn rr : Byte) (s : State) : Result :=
  let m := memRead (zext nn) s
  let t := (fetch m.2).2
  branch i (startOf i s) (m.1.getLsbD n == want) 1 rr t

/-- BBR0 (R360). -/
def execBbr0 (nn rr : Byte) (s : State) : Result :=
  bitBranch (.bbr0 nn rr) 0 false nn rr s

/-- BBR1 (R360). -/
def execBbr1 (nn rr : Byte) (s : State) : Result :=
  bitBranch (.bbr1 nn rr) 1 false nn rr s

/-- BBR2 (R360). -/
def execBbr2 (nn rr : Byte) (s : State) : Result :=
  bitBranch (.bbr2 nn rr) 2 false nn rr s

/-- BBR3 (R360). -/
def execBbr3 (nn rr : Byte) (s : State) : Result :=
  bitBranch (.bbr3 nn rr) 3 false nn rr s

/-- BBR4 (R360). -/
def execBbr4 (nn rr : Byte) (s : State) : Result :=
  bitBranch (.bbr4 nn rr) 4 false nn rr s

/-- BBR5 (R360). -/
def execBbr5 (nn rr : Byte) (s : State) : Result :=
  bitBranch (.bbr5 nn rr) 5 false nn rr s

/-- BBR6 (R360). -/
def execBbr6 (nn rr : Byte) (s : State) : Result :=
  bitBranch (.bbr6 nn rr) 6 false nn rr s

/-- BBR7 (R360). -/
def execBbr7 (nn rr : Byte) (s : State) : Result :=
  bitBranch (.bbr7 nn rr) 7 false nn rr s

/-- BBS0 (R361). -/
def execBbs0 (nn rr : Byte) (s : State) : Result :=
  bitBranch (.bbs0 nn rr) 0 true nn rr s

/-- BBS1 (R361). -/
def execBbs1 (nn rr : Byte) (s : State) : Result :=
  bitBranch (.bbs1 nn rr) 1 true nn rr s

/-- BBS2 (R361). -/
def execBbs2 (nn rr : Byte) (s : State) : Result :=
  bitBranch (.bbs2 nn rr) 2 true nn rr s

/-- BBS3 (R361). -/
def execBbs3 (nn rr : Byte) (s : State) : Result :=
  bitBranch (.bbs3 nn rr) 3 true nn rr s

/-- BBS4 (R361). -/
def execBbs4 (nn rr : Byte) (s : State) : Result :=
  bitBranch (.bbs4 nn rr) 4 true nn rr s

/-- BBS5 (R361). -/
def execBbs5 (nn rr : Byte) (s : State) : Result :=
  bitBranch (.bbs5 nn rr) 5 true nn rr s

/-- BBS6 (R361). -/
def execBbs6 (nn rr : Byte) (s : State) : Result :=
  bitBranch (.bbs6 nn rr) 6 true nn rr s

/-- BBS7 (R361). -/
def execBbs7 (nn rr : Byte) (s : State) : Result :=
  bitBranch (.bbs7 nn rr) 7 true nn rr s


end Sys2Proof.Machine
end

