-- ==== Sys2Proof/Machine/IncShift.lean ====
section
/-! DEFINITION. Increment, decrement, shift and rotate. Rules: spec/45_incdec_shift.md R310 to R320. -/

namespace Sys2Proof.Machine

/-- INC (R311); its absolute,X count is fixed. -/
def execInc (dst : Dst) (s : State) : Result :=
  finish (.inc dst) (rmwDst incF dst s)

/-- DEC (R312); its absolute,X count is fixed. -/
def execDec (dst : Dst) (s : State) : Result :=
  finish (.dec dst) (rmwDst decF dst s)

/-- INX: `X <- (X + 1) mod 256; SetNZ(X)` (R313). -/
def execInx (s : State) : Result :=
  finish .inx ((s.setX (s.x + 1)).setNZ (s.x + 1))

/-- INY: `Y <- (Y + 1) mod 256; SetNZ(Y)` (R314). -/
def execIny (s : State) : Result :=
  finish .iny ((s.setY (s.y + 1)).setNZ (s.y + 1))

/-- DEX: `X <- (X - 1) mod 256; SetNZ(X)` (R315). -/
def execDex (s : State) : Result :=
  finish .dex ((s.setX (s.x - 1)).setNZ (s.x - 1))

/-- DEY: `Y <- (Y - 1) mod 256; SetNZ(Y)` (R316). -/
def execDey (s : State) : Result :=
  finish .dey ((s.setY (s.y - 1)).setNZ (s.y - 1))

/-- ASL, LSR, ROL, ROR: one cycle more when absolute,X crosses a page (R310, 30_encoding.md R140). -/
def shiftInstr (i : Instr) (f : RmwFn) (dst : Dst) (s : State) : Result :=
  .next ((rmwDst f dst s).setCycles (baseCycles i + shiftPenalty dst s))

/-- ASL (R317). -/
def execAsl (dst : Dst) (s : State) : Result :=
  shiftInstr (.asl dst) aslF dst s

/-- LSR (R318). -/
def execLsr (dst : Dst) (s : State) : Result :=
  shiftInstr (.lsr dst) lsrF dst s

/-- ROL (R319). -/
def execRol (dst : Dst) (s : State) : Result :=
  shiftInstr (.rol dst) rolF dst s

/-- ROR (R320). -/
def execRor (dst : Dst) (s : State) : Result :=
  shiftInstr (.ror dst) rorF dst s


end Sys2Proof.Machine
end

