-- ==== Sys2Proof/Machine/Logic.lean ====
section
/-! DEFINITION. Logic and bit operations. Rules: spec/44_logic_bit.md R280 to R287. -/

namespace Sys2Proof.Machine

/-- AND: `A <- A &&& M; SetNZ(A)` (R280). -/
def execAnd (src : Src) (s : State) : Result :=
  readInstr (.and src) src (fun v t => (t.setA (t.a &&& v)).setNZ (t.a &&& v)) s

/-- ORA: `A <- A ||| M; SetNZ(A)` (R281). -/
def execOra (src : Src) (s : State) : Result :=
  readInstr (.ora src) src (fun v t => (t.setA (t.a ||| v)).setNZ (t.a ||| v)) s

/-- EOR: `A <- A ^^^ M; SetNZ(A)` (R282). -/
def execEor (src : Src) (s : State) : Result :=
  readInstr (.eor src) src (fun v t => (t.setA (t.a ^^^ v)).setNZ (t.a ^^^ v)) s

/-- P after BIT, by the form: the immediate form writes only Z (R283). -/
def bitP (src : Src) (a m p : Byte) : Byte :=
  match src with
  | .imm _ => bitImmP a m p
  | .mem _ => bitMemP a m p

/-- BIT (R283). -/
def execBit (src : Src) (s : State) : Result :=
  readInstr (.bit src) src (fun v t => t.setP (bitP src t.a v t.p)) s

/-- TSB (R284). -/
def execTsb (m : Mem) (s : State) : Result :=
  finish (.tsb m) (rmwMem (applyRmw (tsbF s.a)) m s)

/-- TRB (R285). -/
def execTrb (m : Mem) (s : State) : Result :=
  finish (.trb m) (rmwMem (applyRmw (trbF s.a)) m s)

/-- RMBn: clear bit `n` of a zero-page byte; no flag (R286). -/
def resetBit (i : Instr) (n : Nat) (nn : Byte) (s : State) : Result :=
  finish i (rmwMem (fun v t => (v &&& (bitMask n ^^^ 0xFF), t)) (.zp nn) s)

/-- SMBn: set bit `n` of a zero-page byte; no flag (R287). -/
def setBit (i : Instr) (n : Nat) (nn : Byte) (s : State) : Result :=
  finish i (rmwMem (fun v t => (v ||| bitMask n, t)) (.zp nn) s)

/-- RMB0 (R286). -/
def execRmb0 (nn : Byte) (s : State) : Result :=
  resetBit (.rmb0 nn) 0 nn s

/-- RMB1 (R286). -/
def execRmb1 (nn : Byte) (s : State) : Result :=
  resetBit (.rmb1 nn) 1 nn s

/-- RMB2 (R286). -/
def execRmb2 (nn : Byte) (s : State) : Result :=
  resetBit (.rmb2 nn) 2 nn s

/-- RMB3 (R286). -/
def execRmb3 (nn : Byte) (s : State) : Result :=
  resetBit (.rmb3 nn) 3 nn s

/-- RMB4 (R286). -/
def execRmb4 (nn : Byte) (s : State) : Result :=
  resetBit (.rmb4 nn) 4 nn s

/-- RMB5 (R286). -/
def execRmb5 (nn : Byte) (s : State) : Result :=
  resetBit (.rmb5 nn) 5 nn s

/-- RMB6 (R286). -/
def execRmb6 (nn : Byte) (s : State) : Result :=
  resetBit (.rmb6 nn) 6 nn s

/-- RMB7 (R286). -/
def execRmb7 (nn : Byte) (s : State) : Result :=
  resetBit (.rmb7 nn) 7 nn s

/-- SMB0 (R287). -/
def execSmb0 (nn : Byte) (s : State) : Result :=
  setBit (.smb0 nn) 0 nn s

/-- SMB1 (R287). -/
def execSmb1 (nn : Byte) (s : State) : Result :=
  setBit (.smb1 nn) 1 nn s

/-- SMB2 (R287). -/
def execSmb2 (nn : Byte) (s : State) : Result :=
  setBit (.smb2 nn) 2 nn s

/-- SMB3 (R287). -/
def execSmb3 (nn : Byte) (s : State) : Result :=
  setBit (.smb3 nn) 3 nn s

/-- SMB4 (R287). -/
def execSmb4 (nn : Byte) (s : State) : Result :=
  setBit (.smb4 nn) 4 nn s

/-- SMB5 (R287). -/
def execSmb5 (nn : Byte) (s : State) : Result :=
  setBit (.smb5 nn) 5 nn s

/-- SMB6 (R287). -/
def execSmb6 (nn : Byte) (s : State) : Result :=
  setBit (.smb6 nn) 6 nn s

/-- SMB7 (R287). -/
def execSmb7 (nn : Byte) (s : State) : Result :=
  setBit (.smb7 nn) 7 nn s


end Sys2Proof.Machine
end

