-- ==== Sys2Proof/Machine/Stack.lean ====
section
/-! DEFINITION. Stack operations. Rules: spec/42_stack.md R230 to R240. -/

namespace Sys2Proof.Machine

/-- PHA: `Push(A)` (R232). -/
def execPha (s : State) : Result :=
  finish .pha (push s.a s)

/-- PHX: `Push(X)` (R234). -/
def execPhx (s : State) : Result :=
  finish .phx (push s.x s)

/-- PHY: `Push(Y)` (R235). -/
def execPhy (s : State) : Result :=
  finish .phy (push s.y s)

/-- PHP: `Push(P | 0x30)`, the register unchanged (R233). -/
def execPhp (s : State) : Result :=
  finish .php (push (pushedP s.p) s)

/-- PLA: `A <- Pull(); SetNZ(A)` (R236). -/
def execPla (s : State) : Result :=
  let r := pull s
  finish .pla ((r.2.setA r.1).setNZ r.1)

/-- PLX: `X <- Pull(); SetNZ(X)` (R238). -/
def execPlx (s : State) : Result :=
  let r := pull s
  finish .plx ((r.2.setX r.1).setNZ r.1)

/-- PLY: `Y <- Pull(); SetNZ(Y)` (R239). -/
def execPly (s : State) : Result :=
  let r := pull s
  finish .ply ((r.2.setY r.1).setNZ r.1)

/-- PLP: `P <- (Pull() | 0x20) & 0xEF` (R237). -/
def execPlp (s : State) : Result :=
  let r := pull s
  finish .plp (r.2.setP (pulledP r.1))


end Sys2Proof.Machine
end

