-- ==== Sys2Proof/Machine/System.lean ====
section
/-! DEFINITION. Flag instructions, NOP, WAI, STP and the unassigned opcodes. Rules: spec/47_flags_system.md R380 to R396. -/

namespace Sys2Proof.Machine

/-- CLC: `P.C <- 0` (R380). -/
def execClc (s : State) : Result :=
  finish .clc (s.setP (setF .c false s.p))

/-- SEC: `P.C <- 1` (R381). -/
def execSec (s : State) : Result :=
  finish .sec (s.setP (setF .c true s.p))

/-- CLI: `P.I <- 0` (R382). -/
def execCli (s : State) : Result :=
  finish .cli (s.setP (setF .i false s.p))

/-- SEI: `P.I <- 1` (R383). -/
def execSei (s : State) : Result :=
  finish .sei (s.setP (setF .i true s.p))

/-- CLD: `P.D <- 0` (R384). -/
def execCld (s : State) : Result :=
  finish .cld (s.setP (setF .d false s.p))

/-- SED: `P.D <- 1` (R385). -/
def execSed (s : State) : Result :=
  finish .sed (s.setP (setF .d true s.p))

/-- CLV: `P.V <- 0` (R386). -/
def execClv (s : State) : Result :=
  finish .clv (s.setP (setF .v false s.p))

/-- NOP (R387). -/
def execNop (s : State) : Result :=
  finish .nop s

/-- WAI: `exec <- Waiting` (R390). -/
def execWai (s : State) : Result :=
  finish .wai (s.setExec .waiting)

/-- STP: `exec <- Stopped` (R391). -/
def execStp (s : State) : Result :=
  finish .stp (s.setExec .stopped)

/-- An unassigned opcode (R395): under `UNDOC_POLICY` = nop nothing but the fetches and the count; under refuse a refusal that
names the opcode and its address. -/
def undocumented (i : Instr) (op : Byte) (s : State) : Result :=
  match s.cfg.undocPolicy with
  | .nop => finish i s
  | .refuse => .refused (.undocumented op (startOf i s))

/-- NOP* of one byte (R395, R142). -/
def execNopU1 (op : Byte) (s : State) : Result :=
  undocumented (.nopU1 op) op s

/-- NOP* of two bytes (R395, R142). -/
def execNopU2 (op ii : Byte) (s : State) : Result :=
  undocumented (.nopU2 op ii) op s

/-- NOP* of two bytes with a zero-page operand, which is not read (R395, R142, D40). -/
def execNopU2zp (op nn : Byte) (s : State) : Result :=
  undocumented (.nopU2zp op nn) op s

/-- NOP* of three bytes; the address they form is not read (R395, R142, D40). -/
def execNopU3 (op : Byte) (hhll : Word) (s : State) : Result :=
  undocumented (.nopU3 op hhll) op s


end Sys2Proof.Machine
end

