-- ==== Sys2Proof/Machine/Dispatch.lean ====
section
/-! DEFINITION. One arm per instruction: the meaning of its own rule, run on the state after its bytes have been fetched. -/

namespace Sys2Proof.Machine

def exec (i : Instr) (s : State) : Host.Outcome State Fault Refusal :=
  match i with
  | .lda src => Sys2Proof.Machine.execLda src s
  | .ldx src => Sys2Proof.Machine.execLdx src s
  | .ldy src => Sys2Proof.Machine.execLdy src s
  | .sta m => Sys2Proof.Machine.execSta m s
  | .stx m => Sys2Proof.Machine.execStx m s
  | .sty m => Sys2Proof.Machine.execSty m s
  | .stz m => Sys2Proof.Machine.execStz m s
  | .tax => Sys2Proof.Machine.execTax s
  | .tay => Sys2Proof.Machine.execTay s
  | .txa => Sys2Proof.Machine.execTxa s
  | .tya => Sys2Proof.Machine.execTya s
  | .tsx => Sys2Proof.Machine.execTsx s
  | .txs => Sys2Proof.Machine.execTxs s
  | .pha => Sys2Proof.Machine.execPha s
  | .php => Sys2Proof.Machine.execPhp s
  | .phx => Sys2Proof.Machine.execPhx s
  | .phy => Sys2Proof.Machine.execPhy s
  | .pla => Sys2Proof.Machine.execPla s
  | .plp => Sys2Proof.Machine.execPlp s
  | .plx => Sys2Proof.Machine.execPlx s
  | .ply => Sys2Proof.Machine.execPly s
  | .adc src => Sys2Proof.Machine.execAdc src s
  | .sbc src => Sys2Proof.Machine.execSbc src s
  | .cmp src => Sys2Proof.Machine.execCmp src s
  | .cpx src => Sys2Proof.Machine.execCpx src s
  | .cpy src => Sys2Proof.Machine.execCpy src s
  | .and src => Sys2Proof.Machine.execAnd src s
  | .ora src => Sys2Proof.Machine.execOra src s
  | .eor src => Sys2Proof.Machine.execEor src s
  | .bit src => Sys2Proof.Machine.execBit src s
  | .tsb m => Sys2Proof.Machine.execTsb m s
  | .trb m => Sys2Proof.Machine.execTrb m s
  | .rmb0 nn => Sys2Proof.Machine.execRmb0 nn s
  | .rmb1 nn => Sys2Proof.Machine.execRmb1 nn s
  | .rmb2 nn => Sys2Proof.Machine.execRmb2 nn s
  | .rmb3 nn => Sys2Proof.Machine.execRmb3 nn s
  | .rmb4 nn => Sys2Proof.Machine.execRmb4 nn s
  | .rmb5 nn => Sys2Proof.Machine.execRmb5 nn s
  | .rmb6 nn => Sys2Proof.Machine.execRmb6 nn s
  | .rmb7 nn => Sys2Proof.Machine.execRmb7 nn s
  | .smb0 nn => Sys2Proof.Machine.execSmb0 nn s
  | .smb1 nn => Sys2Proof.Machine.execSmb1 nn s
  | .smb2 nn => Sys2Proof.Machine.execSmb2 nn s
  | .smb3 nn => Sys2Proof.Machine.execSmb3 nn s
  | .smb4 nn => Sys2Proof.Machine.execSmb4 nn s
  | .smb5 nn => Sys2Proof.Machine.execSmb5 nn s
  | .smb6 nn => Sys2Proof.Machine.execSmb6 nn s
  | .smb7 nn => Sys2Proof.Machine.execSmb7 nn s
  | .inc dst => Sys2Proof.Machine.execInc dst s
  | .dec dst => Sys2Proof.Machine.execDec dst s
  | .inx => Sys2Proof.Machine.execInx s
  | .iny => Sys2Proof.Machine.execIny s
  | .dex => Sys2Proof.Machine.execDex s
  | .dey => Sys2Proof.Machine.execDey s
  | .asl dst => Sys2Proof.Machine.execAsl dst s
  | .lsr dst => Sys2Proof.Machine.execLsr dst s
  | .rol dst => Sys2Proof.Machine.execRol dst s
  | .ror dst => Sys2Proof.Machine.execRor dst s
  | .jmp t => Sys2Proof.Machine.execJmp t s
  | .jsr hhll => Sys2Proof.Machine.execJsr hhll s
  | .rts => Sys2Proof.Machine.execRts s
  | .brk ss => Sys2Proof.Machine.execBrk ss s
  | .rti => Sys2Proof.Machine.execRti s
  | .bpl rr => Sys2Proof.Machine.execBpl rr s
  | .bmi rr => Sys2Proof.Machine.execBmi rr s
  | .bvc rr => Sys2Proof.Machine.execBvc rr s
  | .bvs rr => Sys2Proof.Machine.execBvs rr s
  | .bcc rr => Sys2Proof.Machine.execBcc rr s
  | .bcs rr => Sys2Proof.Machine.execBcs rr s
  | .bne rr => Sys2Proof.Machine.execBne rr s
  | .beq rr => Sys2Proof.Machine.execBeq rr s
  | .bra rr => Sys2Proof.Machine.execBra rr s
  | .bbr0 nn rr => Sys2Proof.Machine.execBbr0 nn rr s
  | .bbr1 nn rr => Sys2Proof.Machine.execBbr1 nn rr s
  | .bbr2 nn rr => Sys2Proof.Machine.execBbr2 nn rr s
  | .bbr3 nn rr => Sys2Proof.Machine.execBbr3 nn rr s
  | .bbr4 nn rr => Sys2Proof.Machine.execBbr4 nn rr s
  | .bbr5 nn rr => Sys2Proof.Machine.execBbr5 nn rr s
  | .bbr6 nn rr => Sys2Proof.Machine.execBbr6 nn rr s
  | .bbr7 nn rr => Sys2Proof.Machine.execBbr7 nn rr s
  | .bbs0 nn rr => Sys2Proof.Machine.execBbs0 nn rr s
  | .bbs1 nn rr => Sys2Proof.Machine.execBbs1 nn rr s
  | .bbs2 nn rr => Sys2Proof.Machine.execBbs2 nn rr s
  | .bbs3 nn rr => Sys2Proof.Machine.execBbs3 nn rr s
  | .bbs4 nn rr => Sys2Proof.Machine.execBbs4 nn rr s
  | .bbs5 nn rr => Sys2Proof.Machine.execBbs5 nn rr s
  | .bbs6 nn rr => Sys2Proof.Machine.execBbs6 nn rr s
  | .bbs7 nn rr => Sys2Proof.Machine.execBbs7 nn rr s
  | .clc => Sys2Proof.Machine.execClc s
  | .sec => Sys2Proof.Machine.execSec s
  | .cli => Sys2Proof.Machine.execCli s
  | .sei => Sys2Proof.Machine.execSei s
  | .cld => Sys2Proof.Machine.execCld s
  | .sed => Sys2Proof.Machine.execSed s
  | .clv => Sys2Proof.Machine.execClv s
  | .nop => Sys2Proof.Machine.execNop s
  | .wai => Sys2Proof.Machine.execWai s
  | .stp => Sys2Proof.Machine.execStp s
  | .nopU1 op => Sys2Proof.Machine.execNopU1 op s
  | .nopU2 op ii => Sys2Proof.Machine.execNopU2 op ii s
  | .nopU2zp op nn => Sys2Proof.Machine.execNopU2zp op nn s
  | .nopU3 op hhll => Sys2Proof.Machine.execNopU3 op hhll s

end Sys2Proof.Machine
end

