-- ==== Sys2Proof/Machine/Step.lean ====
section
/-! DEFINITION. One step of the machine, and the placing of an instruction where it fetches. Rules: spec/40_addressing.md R160
to R163, spec/10_state.md R39, R40, spec/70_reset_and_hazards.md R473. -/

namespace Sys2Proof.Machine

/-- A step in Running (40_addressing.md R162): fetch the bytes, decode, perform the instruction's rule. -/
def runInstr (s : State) : Host.Outcome State Fault Refusal :=
  exec (instrAt s) (fetchBytes (instrAt s).fetched s.clearOutputs)

/-- `step()` (40_addressing.md R162): a faulted state has no step (10_state.md R40; log 7), a refused one keeps its refusal
(47_flags_system.md R395; log 8), and before a CPU reset a step is refused (70_reset_and_hazards.md R473). In Waiting and
Stopped the step returns 0, makes no bus access and changes nothing. -/
def step (s : State) : Host.Outcome State Fault Refusal :=
  match s.fault with
  | some r => .fault r
  | none =>
    match s.refusal with
    | some r => .refused r
    | none =>
      if s.booted then
        match s.execState with
        | .running => runInstr s
        | .waiting => .next s.clearOutputs
        | .stopped => .next s.clearOutputs
      else .refused .notReset

/-- The state with an instruction word, numbered as spec/opcode_table.json numbers it, stored where the next step fetches, and
the machine ready to run it (log 18). -/
def State.withFetchWord (s : State) (nbits w : Nat) : State :=
  { s with
    mem := s.mem.placeWord s.pc (tableByte nbits w 0) (tableByte nbits w 1) (tableByte nbits w 2)
    execState := .running, fault := none, refusal := none, booted := true }

end Sys2Proof.Machine
end

