-- ==== Sys2Proof/Machine/Views.lean ====
section
/-! DEFINITION. The bus views as arrays of 16 window bindings, and the bus-addressing helpers over them: what the host and the
OS-call context read and write with (no soft-switch effect, no bus event). Rules: spec/20_memory.md R72 to R76, R82, R83, R86,
R102. -/

namespace Sys2Proof.Machine

/-- A read view: the storage each of the 16 windows is bound to (R72, R82). -/
abbrev ReadView := Vector ReadStore 16

/-- A write view (R72, R82). -/
abbrev WriteView := Vector WriteStore 16

/-- `readBus()`: the read view, a function of `lc` alone (R83, R86). -/
def Banked.readBus (m : Banked) : ReadView := Vector.ofFn (fun w => m.lc.readBind w.val)

/-- `writeBus()`: the write view, a function of `lc` alone (R83, R86). -/
def Banked.writeBus (m : Banked) : WriteView := Vector.ofFn (fun w => m.lc.writeBind w.val)

/-- The window of an address as an index of a view (R71). -/
def window (a : Word) : Fin 16 := ⟨bank a, by unfold bank; omega⟩

/-- `readByte(view, addr)` (R72). -/
def readByte (v : ReadView) (m : Banked) (a : Word) : Byte := m.readFrom (v.get (window a)) a

/-- `writeByte(view, addr, v)` (R72). -/
def writeByte (v : WriteView) (m : Banked) (a : Word) (b : Byte) : Banked := m.writeTo (v.get (window a)) a b

/-- `read16LE(view, addr)`: low byte first, the second byte at `(addr + 1) mod 2^16` (R74). -/
def read16LE (v : ReadView) (m : Banked) (a : Word) : Word := join (readByte v m (a + 1)) (readByte v m a)

/-- `write16LE(view, addr, w)` (R74). -/
def write16LE (v : WriteView) (m : Banked) (a w : Word) : Banked :=
  writeByte v (writeByte v m a (lo w)) (a + 1) (hi w)

/-- `read24LE(view, addr)`: `b0 | b1 << 8 | b2 << 16` (R75). -/
def read24LE (v : ReadView) (m : Banked) (a : Word) : BitVec 24 :=
  BitVec.ofNat 24
    ((readByte v m a).toNat + (readByte v m (a + 1)).toNat * 0x100 + (readByte v m (a + 2)).toNat * 0x10000)

/-- `write24LE(view, addr, v)` (R75). -/
def write24LE (v : WriteView) (m : Banked) (a : Word) (w : BitVec 24) : Banked :=
  let m1 := writeByte v m a (BitVec.ofNat 8 w.toNat)
  let m2 := writeByte v m1 (a + 1) (BitVec.ofNat 8 (w.toNat / 0x100))
  writeByte v m2 (a + 2) (BitVec.ofNat 8 (w.toNat / 0x10000))

/-- `n` bytes from `a` up, addresses modulo 2^16. -/
def readBytes (v : ReadView) (m : Banked) : Nat → Word → List Byte
  | 0, _ => []
  | n + 1, a => readByte v m a :: readBytes v m n (a + 1)

/-- `readCountedString(view, addr, maxLen)`: the length byte at `addr`, then up to `min(length, maxLen)` raw bytes (R76). -/
def readCountedString (v : ReadView) (m : Banked) (a : Word) (maxLen : Nat) : List Byte :=
  readBytes v m (min (readByte v m a).toNat maxLen) (a + 1)

end Sys2Proof.Machine
end

