-- ==== Sys2Proof/Machine/HostCalls.lean ====
section
/-! DEFINITION. What the host can do to the machine between steps: construction, the two resets, `loadROM`, the setters,
`applySoftSwitch`, `run(n)`, and the state that stands after a step's outcome. Rules: spec/10_state.md R50, spec/20_memory.md R92
to R95, spec/40_addressing.md R180, spec/60_exceptions.md R430, spec/70_reset_and_hazards.md R470 to R474. -/

namespace Sys2Proof.Machine

/-- What the spec leaves unspecified at construction (70_reset_and_hazards.md R473): arguments, so that nothing is chosen. -/
structure Unspecified where
  pc : Word
  a : Byte
  x : Byte
  y : Byte
  sp : Byte
  p : Byte
  ram : Memory
  lc2 : Memory
  lc : LC
deriving DecidableEq, Repr

/-- Construction (R473, R50): exec Running, fault none, ROM absent, trace empty, no CPU reset yet. -/
def State.construct (cfg : Config) (u : Unspecified) : State :=
  { pc := u.pc, a := u.a, x := u.x, y := u.y, sp := u.sp, p := u.p
    execState := .running, fault := none, refusal := none, booted := false
    mem := { ram := u.ram, lc2 := u.lc2, rom := none, lc := u.lc }
    trace := [], cfg := cfg, cycles := 0, bus := [], osCalls := 0 }

/-- CPU `reset()` (R470): the vector through the read bus, as two CPU bus reads; P = 0x24, SP = 0xFF, Running, no fault; A, X,
Y, the memory and the trace unchanged. It returns no cycle count and keeps a refusal mark (log 8). -/
def State.cpuReset (s : State) : State :=
  let v := read16 resetVector s.clearOutputs
  { v.2 with pc := v.1, p := 0x24, sp := 0xFF, execState := .running, fault := none, booted := true }

/-- Memory `reset()` (R471, 20_memory.md R94). -/
def State.memReset (s : State) : State := { s with mem := s.mem.reset }

/-- `loadROM(bytes)` (20_memory.md R92): the new state, or the error with the state as it was. -/
def State.loadROM (s : State) (bytes : List Byte) : Except HostError State :=
  match s.mem.loadROM bytes with
  | .ok m => .ok { s with mem := m }
  | .error e => .error e

/-- `setLCReadEnabled(b)` (20_memory.md R93). -/
def State.setLCReadEnabled (s : State) (b : Bool) : State :=
  { s with mem := { s.mem with lc := { s.mem.lc with readEnabled := b } } }

/-- `setLCWriteEnabled(b)` (20_memory.md R93). -/
def State.setLCWriteEnabled (s : State) (b : Bool) : State :=
  { s with mem := { s.mem with lc := { s.mem.lc with writeEnabled := b } } }

/-- `setLCBank1(b)` (20_memory.md R93). -/
def State.setLCBank1 (s : State) (b : Bool) : State :=
  { s with mem := { s.mem with lc := { s.mem.lc with bank := if b then .bank1 else .bank2 } } }

/-- The host's own `applySoftSwitch(addr, isRead)` (20_memory.md R95, R102): no bus event. -/
def State.applySoftSwitch (s : State) (a : Word) (isRead : Bool) : Bool × State :=
  let r := s.mem.applySoftSwitch a isRead
  (r.1, { s with mem := r.2 })

/-- The state that stands after a step (60_exceptions.md R430): the next state; after a fault the state before the step with
`fault` set (48_os_call_trap.md R414); after the refusal of an unassigned opcode the state with the refusal mark
(47_flags_system.md R395). -/
def State.after (s : State) (r : Result) : State :=
  match r with
  | .next t => t
  | .fault f => { s with fault := some f }
  | .refused (.undocumented op a) => { s with refusal := some (.undocumented op a) }
  | .refused _ => s

/-- How `run(n)` ends. -/
inductive RunEnd where
  | done
  | fault (r : Fault)
  | refused (r : Refusal)
deriving DecidableEq, Repr

/-- The result of `run(n)`: the sum of the cycle counts, how it ended, and the state that stands. -/
structure RunResult where
  cycles : Nat
  ending : RunEnd
  state : State
deriving DecidableEq, Repr

/-- `run(n)`: n steps in order, the cycle counts summed, stopping at the first step that faults (40_addressing.md R180, D21). -/
def run : Nat → State → RunResult
  | 0, s => ⟨0, .done, s⟩
  | n + 1, s =>
    match step s with
    | .next t => let r := run n t; { r with cycles := t.cycles + r.cycles }
    | .fault f => ⟨0, .fault f, s.after (.fault f)⟩
    | .refused f => ⟨0, .refused f, s.after (.refused f)⟩

end Sys2Proof.Machine
end

