-- ==== Sys2Proof/Safety.lean ====
section
/-! DEFINITION. The terms that claims are stated in: what a run of bus accesses does to the memory model, what a step stores,
the invariant of the machine, and what a safe step is. -/

namespace Sys2Proof.Machine

/-- The memory model after a list of bus accesses, in order (20_memory.md R70, R100, R101). -/
def replay : List BusEvent → Banked → Banked
  | [], m => m
  | e :: es, m => replay es (e.apply m)

/-- The state after a list of bus accesses: the memory model is their replay and the bus monitor has seen them; every other
field is as before. -/
def State.afterBus (s : State) (es : List BusEvent) : State :=
  { s with mem := replay es s.mem, bus := s.bus ++ es }

/-- A CPU read of `a` as the monitor sees it, with the byte the read bus shows in `m`. -/
def readEv (m : Banked) (a : Word) : BusEvent := .read a (m.readMap a)

/-- No byte of any store differs. -/
def SameStores (m m' : Banked) : Prop := m'.ram = m.ram ∧ m'.lc2 = m.lc2 ∧ m'.rom = m.rom

/-- Every byte of every store reads as before, but those that the addresses of `l` name: `ram` at the address, `lc2` at its
offset if it lies in window 13. The ROM is unchanged. -/
def StoresOnlyAt (l : List Word) (m m' : Banked) : Prop :=
  (∀ k : Nat, (∀ a ∈ l, k ≠ a.toNat) → Memory.read m'.ram k = Memory.read m.ram k) ∧
  (∀ k : Nat, (∀ a ∈ l, ¬ (bank a = 13 ∧ k = offset a)) → Memory.read m'.lc2 k = Memory.read m.lc2 k) ∧
  m'.rom = m.rom

/-- The four stores are in canonical form (log 13, log 14). -/
def Banked.wf (m : Banked) : Bool :=
  Memory.wf ramSize m.ram && Memory.wf lc2Size m.lc2 &&
  match m.rom with
  | some r => Memory.wf romSize r
  | none => true

/-- Is the transition of an entry this one? -/
def TraceEntry.sameAs (e f : TraceEntry) : Bool := e.src == f.src && e.dst == f.dst

/-- Counts are at least 1, no entry lies wholly in the top 2KB, and neighbours are different transitions (10_state.md R47,
R48). -/
def traceOk : List TraceEntry → Bool
  | [] => true
  | e :: es =>
    decide (1 ≤ e.count) && !filtered e.src e.dst &&
    (match es with
     | [] => true
     | f :: _ => !e.sameAs f) && traceOk es

/-- The invariant of the machine: U = 1 and B = 0 in P (10_state.md R37), canonical stores, and a trace in order and within its
positive capacity (10_state.md R47, R48; 00_scope.md R11). -/
def State.inv (s : State) : Bool :=
  getF .u s.p && !getF .b s.p && s.mem.wf && decide (1 ≤ s.cfg.traceCap) &&
  decide (s.trace.length ≤ s.cfg.traceCap) && traceOk s.trace

/-- The invariant as a proposition. -/
abbrev State.Inv (s : State) : Prop := s.inv = true

/-- A step that neither faults nor is refused. -/
def SafeStep (s : State) : Prop := ∃ t, step s = .next t

/-- The machine is ready to run an instruction: Running, no fault, no refusal mark, reset (40_addressing.md R162). -/
def State.Ready (s : State) : Prop :=
  s.execState = .running ∧ s.fault = none ∧ s.refusal = none ∧ s.booted = true

/-- Is the instruction at PC a JSR to the trap address? -/
def State.AtTrap (s : State) : Prop := ∃ w, instrAt s = .jsr w ∧ s.cfg.mliTrapAddr = some w

/-- Every read event of the list carries the byte the read bus shows when its turn comes. -/
def TrueReads : List BusEvent → Banked → Prop
  | [], _ => True
  | .read a v :: es, m => v = m.readMap a ∧ TrueReads es ((BusEvent.read a v).apply m)
  | .write a v :: es, m => TrueReads es ((BusEvent.write a v).apply m)

/-- The address of a bus event. -/
def BusEvent.addr : BusEvent → Word
  | .read a _ => a
  | .write a _ => a

/-! ## The addressing rules, read from the state in which the instruction's own rule starts -/

/-- The pointer at zero-page address `z` (40_addressing.md R166). -/
def zpPointer (m : Banked) (z : Byte) : Word := join (m.readMap (zext (z + 1))) (m.readMap (zext z))

/-- The word at `a` and `a + 1` modulo 2^16 (20_memory.md R84). -/
def wordAt (m : Banked) (a : Word) : Word := join (m.readMap (a + 1)) (m.readMap a)

/-- The effective address (40_addressing.md R164 to R171). -/
def eaOf (m : Mem) (s : State) : Word :=
  match m with
  | .zp nn => join 0x00 nn
  | .zpx nn => join 0x00 (nn + s.x)
  | .zpy nn => join 0x00 (nn + s.y)
  | .abs w => w
  | .absx w => w + zext s.x
  | .absy w => w + zext s.y
  | .izx nn => zpPointer s.mem (nn + s.x)
  | .izy nn => zpPointer s.mem nn + zext s.y
  | .izp nn => zpPointer s.mem nn

/-- Does the low-byte addition carry (40_addressing.md R172)? -/
def carries (base : Word) (r : Byte) : Bool := decide ((lo base).toNat + r.toNat > 0xFF)

/-- The page-crossed flag (40_addressing.md R172). -/
def crosses (m : Mem) (s : State) : Bool :=
  match m with
  | .absx w => carries w s.x
  | .absy w => carries w s.y
  | .izy nn => carries (zpPointer s.mem nn) s.y
  | .zp _ | .zpx _ | .zpy _ | .abs _ | .izx _ | .izp _ => false

/-- The un-carried address (40_addressing.md R168, R170); the EA in a form with no carry. -/
def uncarriedOf (m : Mem) (s : State) : Word :=
  match m with
  | .absx w => join (hi w) (lo w + s.x)
  | .absy w => join (hi w) (lo w + s.y)
  | .izy nn => join (hi (zpPointer s.mem nn)) (lo (zpPointer s.mem nn) + s.y)
  | .zp _ | .zpx _ | .zpy _ | .abs _ | .izx _ | .izp _ => eaOf m s

/-- The two reads of a zero-page pointer, low byte first (40_addressing.md R166). -/
def zpPointerReads (m : Banked) (z : Byte) : List BusEvent := [readEv m (zext z), readEv m (zext (z + 1))]

/-- The pointer reads of a memory form (40_addressing.md R175 row 3). -/
def pointerReads (m : Mem) (s : State) : List BusEvent :=
  match m with
  | .izx nn => zpPointerReads s.mem (nn + s.x)
  | .izy nn | .izp nn => zpPointerReads s.mem nn
  | .zp _ | .zpx _ | .zpy _ | .abs _ | .absx _ | .absy _ => []

/-- The bus reads of the read class on memory (40_addressing.md R175 rows 3, 4, 5a; R176). -/
def readAccesses (m : Mem) (s : State) : List BusEvent :=
  pointerReads m s ++ (if crosses m s then [readEv s.mem (uncarriedOf m s)] else []) ++ [readEv s.mem (eaOf m s)]

/-- The bus accesses of the write class (40_addressing.md R175 rows 3, 5b). -/
def writeAccesses (m : Mem) (v : Byte) (s : State) : List BusEvent := pointerReads m s ++ [.write (eaOf m s) v]

/-- The bus accesses of a read-modify-write instruction that writes `v` (40_addressing.md R175 rows 3, 5c; R177): the dummy read
at `next - 1` sees the Language Card as the read of EA left it. -/
def rmwAccesses (m : Mem) (v : Byte) (s : State) : List BusEvent :=
  pointerReads m s ++
    [readEv s.mem (eaOf m s), readEv ((readEv s.mem (eaOf m s)).apply s.mem) (s.pc - 1), .write (eaOf m s) v]

/-- The operand byte of a reading instruction (40_addressing.md R179, R175). -/
def operandOf (src : Src) (s : State) : Byte :=
  match src with
  | .imm v => v
  | .mem m => s.mem.readMap (eaOf m s)

/-- Its bus reads: an immediate operand makes none beyond the fetches. -/
def srcAccesses (src : Src) (s : State) : List BusEvent :=
  match src with
  | .imm _ => []
  | .mem m => readAccesses m s

/-- Its page-crossed flag. -/
def srcCrosses (src : Src) (s : State) : Bool :=
  match src with
  | .imm _ => false
  | .mem m => crosses m s

end Sys2Proof.Machine
end

