-- ==== Sys2Proof/Certificates/Slice0/Obligations.lean ====
section
/-! DEFINITION. The statements for the provers. Each docstring names the rules of spec/ its statement formalises; the words
"every state" mean every value of State, reachable or not. -/

open Sys2Proof Sys2Proof.Machine


/-! ## Vocabulary of the statements -/

/-- Flags after an instruction that writes those of `fs`: every other flag is as before, and U reads 1 (10_state.md R36, R37). -/
def Sys2Proof.Machine.FlagsKeptBut (fs : List Flag) (p q : Byte) : Prop :=
  getF .u q = true ∧ ∀ f : Flag, f ∉ fs → f ≠ .u → getF f q = getF f p

/-- N and Z of a result (10_state.md R38). -/
def Sys2Proof.Machine.NZOf (v q : Byte) : Prop := getF .n q = v.getLsbD 7 ∧ getF .z q = decide (v = 0)

/-- The cycles column of the reading instructions (30_encoding.md section 7). A form of Instr that is no row of the table (log 16)
has the number of its kind too. -/
def Sys2Proof.Machine.readCount : Src → Nat
  | .imm _ => 2
  | .mem (.zp _) => 3
  | .mem (.zpx _) | .mem (.zpy _) | .mem (.abs _) | .mem (.absx _) | .mem (.absy _) => 4
  | .mem (.izy _) | .mem (.izp _) => 5
  | .mem (.izx _) => 6

/-- The cycles column of the storing instructions (30_encoding.md section 7; log 16 for a form that is no row). -/
def Sys2Proof.Machine.writeCount : Mem → Nat
  | .zp _ => 3
  | .zpx _ | .zpy _ | .abs _ => 4
  | .absx _ | .absy _ | .izp _ => 5
  | .izx _ | .izy _ => 6

/-- The cycles column of the read-modify-write instructions on memory, `absx` being that of absolute,X: 7 for INC and DEC, 6 for
the shifts and rotates (30_encoding.md section 7). The forms that no such instruction has count 0, the model's own (log 16). -/
def Sys2Proof.Machine.rmwCount (absx : Nat) : Mem → Nat
  | .zp _ => 5
  | .zpx _ | .abs _ => 6
  | .absx _ => absx
  | .zpy _ | .absy _ | .izx _ | .izy _ | .izp _ => 0

/-- A reading instruction: it completes in the state in which only its operand's bus reads have happened, with P `t.p`, the count
of `base` and one more on a page cross, and the fields that `put` writes. No byte of any store changes. -/
def Sys2Proof.Machine.ReadsAndPuts (i : Instr) (src : Src) (put : Byte → State → State) (flags : Byte → Byte → Prop) (s : State) :
    Prop :=
  ∃ t, exec i s = .next t ∧
    t = { put (operandOf src s) (s.afterBus (srcAccesses src s)) with
          p := t.p, cycles := readCount src + if srcCrosses src s then 1 else 0 } ∧
    flags (operandOf src s) t.p ∧ SameStores s.mem t.mem

/-- A storing instruction: it completes with the write of `v` at the effective address of `m` as its last bus access, and no other
byte of any store changes. Where the write bus resolves the address to `ram`, the byte there is `v`; where LC write is disabled, no
byte changes. -/
def Sys2Proof.Machine.Stores (i : Instr) (m : Mem) (v : Byte) (s : State) : Prop :=
  ∃ t, exec i s = .next t ∧
    t = { s.afterBus (writeAccesses m v s) with cycles := writeCount m } ∧
    StoresOnlyAt [(resolve m s).1.addr] s.mem t.mem ∧
    (s.mem.wf = true → bank (resolve m s).1.addr ≤ 12 → Memory.read t.mem.ram (resolve m s).1.addr.toNat = v) ∧
    (13 ≤ bank (resolve m s).1.addr → s.mem.lc.writeEnabled = false → SameStores s.mem t.mem)

/-- A push of one byte: it goes to the byte SP addresses, and SP goes down by one. -/
def Sys2Proof.Machine.PushesByte (i : Instr) (v : Byte) (s : State) : Prop :=
  ∃ t, exec i s = .next t ∧
    t = { s.afterBus [.write (stackAddr s.sp) v] with sp := s.sp - 1, cycles := 3 } ∧
    StoresOnlyAt [stackAddr s.sp] s.mem t.mem ∧
    (s.mem.wf = true → Memory.read t.mem.ram (0x100 + s.sp.toNat) = v)

/-- Where the byte of one write ends up, by window and Language Card (20_memory.md R89): `ram`, `lc2`, or nowhere. In window 13,
where both stores have a byte for the address, the store not written keeps its own. -/
def Sys2Proof.Machine.PutsByte (m m' : Banked) (a : Word) (b : Byte) : Prop :=
  (bank a ≤ 12 ∨ (m.lc.writeEnabled = true ∧ ¬ (bank a = 13 ∧ m.lc.bank = .bank2)) → Memory.read m'.ram a.toNat = b) ∧
  (bank a = 13 → m.lc.writeEnabled = true → m.lc.bank = .bank1 →
    Memory.read m'.lc2 (a.toNat % 0x1000) = Memory.read m.lc2 (a.toNat % 0x1000)) ∧
  (bank a = 13 → m.lc.writeEnabled = true → m.lc.bank = .bank2 →
    Memory.read m'.lc2 (a.toNat % 0x1000) = b ∧ Memory.read m'.ram a.toNat = Memory.read m.ram a.toNat) ∧
  (13 ≤ bank a → m.lc.writeEnabled = false →
    Memory.read m'.ram a.toNat = Memory.read m.ram a.toNat ∧ m'.lc2 = m.lc2)

/-- The byte a pull returns. -/
def Sys2Proof.Machine.topOfStack (s : State) : Byte := Memory.read s.mem.ram (0x100 + (s.sp + 1).toNat)

/-- A pull into the fields that `put` writes. -/
def Sys2Proof.Machine.PullsByte (i : Instr) (put : Byte → State → State) (flags : Byte → Byte → Prop) (s : State) : Prop :=
  ∃ t, exec i s = .next t ∧
    t = { put (topOfStack s) (s.afterBus [.read (stackAddr (s.sp + 1)) (topOfStack s)]) with
          sp := s.sp + 1, p := t.p, cycles := 4 } ∧
    flags (topOfStack s) t.p ∧ t.mem = s.mem

/-- A read-modify-write instruction in both its forms: `val` is the new byte and `flags` relates the old byte, the old P and the new
P. On memory the byte goes back to the effective address, and no other byte of any store changes. -/
def Sys2Proof.Machine.Modifies (i : Dst → Instr) (val : Byte → Byte → Byte) (flags : Byte → Byte → Byte → Prop) (absx : Nat)
    (cross : Mem → State → Nat) : Prop :=
  ∀ s : State,
    (∃ t, exec (i .acc) s = .next t ∧ t = { s with a := val s.a s.p, p := t.p, cycles := 2 } ∧ flags s.a s.p t.p) ∧
    ∀ m : Mem, ∃ t, exec (i (.mem m)) s = .next t ∧
      t = { s.afterBus (rmwAccesses m (val (s.mem.readMap (eaOf m s)) s.p) s) with
            p := t.p, cycles := rmwCount absx m + cross m s } ∧
      flags (s.mem.readMap (eaOf m s)) s.p t.p ∧ StoresOnlyAt [(resolve m s).1.addr] s.mem t.mem

/-- The page-cross penalty of the shifts: absolute,X only (30_encoding.md R140). -/
def Sys2Proof.Machine.absxCross (m : Mem) (s : State) : Nat :=
  match m with
  | .absx w => if carries w s.x then 1 else 0
  | _ => 0

/-- A read-modify-write instruction that has memory forms only. -/
def Sys2Proof.Machine.ModifiesMem (i : Instr) (m : Mem) (val : Byte → Byte) (flags : Byte → Byte → Prop) (s : State) : Prop :=
  ∃ t, exec i s = .next t ∧
    t = { s.afterBus (rmwAccesses m (val (s.mem.readMap (eaOf m s))) s) with p := t.p, cycles := rmwCount 6 m } ∧
    flags (s.mem.readMap (eaOf m s)) t.p ∧ StoresOnlyAt [(resolve m s).1.addr] s.mem t.mem

/-- RMBn by its number. -/
def Sys2Proof.Machine.rmbAt (n : Fin 8) (nn : Byte) : Instr :=
  [.rmb0 nn, .rmb1 nn, .rmb2 nn, .rmb3 nn, .rmb4 nn, .rmb5 nn, .rmb6 nn, .rmb7 nn].get n

/-- SMBn by its number. -/
def Sys2Proof.Machine.smbAt (n : Fin 8) (nn : Byte) : Instr :=
  [.smb0 nn, .smb1 nn, .smb2 nn, .smb3 nn, .smb4 nn, .smb5 nn, .smb6 nn, .smb7 nn].get n

/-- BBRn by its number. -/
def Sys2Proof.Machine.bbrAt (n : Fin 8) (nn rr : Byte) : Instr :=
  [.bbr0 nn rr, .bbr1 nn rr, .bbr2 nn rr, .bbr3 nn rr, .bbr4 nn rr, .bbr5 nn rr, .bbr6 nn rr, .bbr7 nn rr].get n

/-- BBSn by its number. -/
def Sys2Proof.Machine.bbsAt (n : Fin 8) (nn rr : Byte) : Instr :=
  [.bbs0 nn rr, .bbs1 nn rr, .bbs2 nn rr, .bbs3 nn rr, .bbs4 nn rr, .bbs5 nn rr, .bbs6 nn rr, .bbs7 nn rr].get n

/-- The count a taken branch adds for its page (30_encoding.md R140, D24). -/
def Sys2Proof.Machine.pageCost (target next : Word) : Nat := if hi target = hi next then 0 else 1

/-- A two-byte branch, PC being the address after it: taken it goes to PC plus the sign-extended displacement and is recorded, not
taken only the count is set. -/
def Sys2Proof.Machine.Branches (i : Instr) (cond : Prop) (base taken : Nat) (rr : Byte) (s : State) : Prop :=
  (cond → exec i s = .next { s with
      pc := s.pc + rr.signExtend 16
      trace := recordIn s.cfg.traceCap (s.pc - 2) (s.pc + rr.signExtend 16) s.trace
      cycles := base + taken + pageCost (s.pc + rr.signExtend 16) s.pc }) ∧
  (¬ cond → exec i s = .next { s with cycles := base })

/-- A bit branch, PC being the address of its displacement byte: the zero-page byte is read, then the displacement is fetched. -/
def Sys2Proof.Machine.BitBranches (i : Instr) (cond : Prop) (nn rr : Byte) (s : State) : Prop :=
  let t := { s.afterBus [readEv s.mem (join 0x00 nn), readEv s.mem s.pc] with pc := s.pc + 1 }
  (cond → exec i s = .next { t with
      pc := s.pc + 1 + rr.signExtend 16
      trace := recordIn s.cfg.traceCap (s.pc - 2) (s.pc + 1 + rr.signExtend 16) s.trace
      cycles := 6 + pageCost (s.pc + 1 + rr.signExtend 16) (s.pc + 1) }) ∧
  (¬ cond → exec i s = .next { t with cycles := 5 }) ∧ SameStores s.mem t.mem

/-- An instruction that writes flags of `fs` only. -/
def Sys2Proof.Machine.SetsFlag (i : Instr) (f : Flag) (v : Bool) (s : State) : Prop :=
  ∃ t, exec i s = .next t ∧ t = { s with p := t.p, cycles := 2 } ∧ getF f t.p = v ∧ FlagsKeptBut [f] s.p t.p

/-- A register instruction that puts `v` and sets N and Z from it. -/
def Sys2Proof.Machine.PutsNZ (i : Instr) (put : State → State) (v : Byte) (s : State) : Prop :=
  ∃ t, exec i s = .next t ∧ t = { put s with p := t.p, cycles := 2 } ∧ NZOf v t.p ∧ FlagsKeptBut [.n, .z] s.p t.p

/-- The state with what is only diagnostic erased: the trace and its capacity (10_state.md R47). -/
def Sys2Proof.Machine.State.withoutTrace (s : State) : State :=
  { s with trace := [], cfg := { s.cfg with traceCap := 0 } }

/-- A byte that holds two decimal digits. -/
def Sys2Proof.Machine.IsBcd (b : Byte) : Prop := b.toNat % 16 ≤ 9 ∧ b.toNat / 16 ≤ 9

/-- The number such a byte stands for. -/
def Sys2Proof.Machine.bcdValue (b : Byte) : Nat := b.toNat / 16 * 10 + b.toNat % 16

/-! ## The statements -/

/-- Bytes written from the Encoding lines of the rules decode to LDA #$42, LDA $C0F0,X, STX $FF,Y, JMP ($12FF), BBS7 $10,+2, BRK, TSB $2000 and the 3-byte NOP* 0x5C, with the bytes after the instruction left over. (30_encoding.md R131, R134, R136, R137, section 7) -/
def Obligations.DecodesWrittenWords : Prop :=
  decode .present [0xA9, 0x42, 0xEA] = .ok (.lda (.imm 0x42), [0xEA]) ∧
  decode .present [0xBD, 0xF0, 0xC0] = .ok (.lda (.mem (.absx 0xC0F0)), []) ∧
  decode .present [0x96, 0xFF] = .ok (.stx (.zpy 0xFF), []) ∧
  decode .present [0x6C, 0xFF, 0x12] = .ok (.jmp (.ind 0x12FF), []) ∧
  decode .present [0xFF, 0x10, 0x02] = .ok (.bbs7 0x10 0x02, []) ∧
  decode .present [0x00, 0xEA] = .ok (.brk 0xEA, []) ∧
  decode .present [0x0C, 0x00, 0x20] = .ok (.tsb (.abs 0x2000), []) ∧
  decode .present [0x5C, 0x34, 0x12] = .ok (.nopU3 0x5C 0x1234, [])

/-- For both values of BITOPS and every well-formed instruction, with every operand at every value: it has bytes, as many as its length, and decoding them before any further bytes gives the instruction and leaves exactly those further bytes. (30_encoding.md R130, R131, R139, section 7) -/
def Obligations.DecodeOfEncode : Prop :=
  ∀ (b : BitOps) (i : Instr), WellFormed b i → ∃ bs, encode i = some bs ∧ bs.length = i.length ∧
    ∀ rest, decode b (bs ++ rest) = .ok (i, rest)

/-- For both values of BITOPS: if a list of bytes decodes to an instruction and a rest, the instruction is well-formed, and its bytes followed by the rest are the list. (30_encoding.md R130, R139, R142) -/
def Obligations.EncodeOfDecode : Prop :=
  ∀ (b : BitOps) (bs : List Byte) (i : Instr) (rest : List Byte), decode b bs = .ok (i, rest) →
    WellFormed b i ∧ ∃ ws, encode i = some ws ∧ bs = ws ++ rest

/-- For both values of BITOPS, every opcode byte followed by any two bytes decodes; the length does not depend on the bytes after the opcode and is 1 to 3. With BITOPS = absent every 0x?7 and 0x?F is a 1-byte unassigned opcode. (30_encoding.md R130, R139, R142) -/
def Obligations.EveryOpcodeByteDecodes : Prop :=
  ∀ (b : BitOps) (op b1 b2 : Byte),
    (∃ i rest, decode b [op, b1, b2] = .ok (i, rest) ∧ 1 ≤ i.length ∧ i.length ≤ 3 ∧
      ∀ c1 c2 : Byte, (decodeOp b op c1 c2).length = i.length) ∧
    (op &&& 0x07 = 0x07 → decode .absent [op, b1, b2] = .ok (.nopU1 op, [b1, b2]))

/-- In a ready state, if the three bytes the read bus shows from PC decode to an instruction, the step is that instruction run on the state after its leading bytes have been fetched, the outputs of the last call cleared first. Those leading bytes are all bytes of the instruction, but for BRK, whose signature byte is never read (one byte), and for BBRn and BBSn, whose own rule fetches the displacement after reading the tested byte (two bytes). Two things in it are the model's own form and not R162's words: that all three bytes are decoded as the read bus shows them before any fetch (log 10, DEDUCED: R162 fetches, decodes, then fetches the operands) and that cycles and bus are fields of State cleared first (log 5, DESIGN CHOICE). (40_addressing.md R161, R162, R163, R178, 30_encoding.md R130, R137) -/
def Obligations.StepRunsTheDecodedInstruction : Prop :=
  (∀ (s : State) (i : Instr) (rest : List Byte), s.Ready →
    decode s.cfg.bitops [s.mem.readMap s.pc, s.mem.readMap (s.pc + 1), s.mem.readMap (s.pc + 2)] = .ok (i, rest) →
    step s = exec i (fetchBytes i.fetched { s with cycles := 0, bus := [] })) ∧
  (∀ ss : Byte, (Instr.brk ss).fetched = 1) ∧
  (∀ (n : Fin 8) (nn rr : Byte), (bbrAt n nn rr).fetched = 2 ∧ (bbsAt n nn rr).fetched = 2) ∧
  (∀ i : Instr, (∀ ss, i ≠ .brk ss) → (∀ n nn rr, i ≠ bbrAt n nn rr ∧ i ≠ bbsAt n nn rr) → i.fetched = i.length)

/-- Fetching up to three bytes makes that many bus reads from PC up, in order, each showing the byte the read bus showed before the first of them (an instruction in the switch page ends below window 13), and advances PC by as many, modulo 2^16. Nothing else changes but the Language Card through those reads. (40_addressing.md R160, R161, 20_memory.md R100) -/
def Obligations.FetchesReadTheDecodedBytes : Prop :=
  ∀ (s : State) (n : Nat), n ≤ 3 →
    fetchBytes n s =
      { s.afterBus ([readEv s.mem s.pc, readEv s.mem (s.pc + 1), readEv s.mem (s.pc + 2)].take n) with
        pc := s.pc + BitVec.ofNat 16 n } ∧
    SameStores s.mem (fetchBytes n s).mem

/-- U = 1 and B = 0 in P, canonical stores, and a trace in order within its positive capacity: State.reset meets the invariant. (10_state.md R37, R47, R50) -/
def Obligations.ResetMeetsTheInvariant : Prop :=
  State.reset.Inv

/-- From every state with U = 1 and B = 0 in P, every store in canonical form (addresses rising and inside the store, no byte equal to the fill byte), a positive trace capacity, a trace no longer than it with counts at least 1, no wholly filtered entry and no two neighbouring entries of one transition, a step that answers a next state gives such a state. (10_state.md R37, R42, R43, R44, R47, R48) -/
def Obligations.StepKeepsTheInvariant : Prop :=
  ∀ s t : State, s.Inv → step s = .next t → t.Inv

/-- Whatever the instruction, a step that answers a next state leaves the ROM image, the parameters, the fault, the refusal mark and the record of a CPU reset as they were. (10_state.md R44, 48_os_call_trap.md R412, R419, 20_memory.md R89) -/
def Obligations.StepKeepsRomAndConfiguration : Prop :=
  ∀ s t : State, step s = .next t →
    t.mem.rom = s.mem.rom ∧ t.cfg = s.cfg ∧ t.fault = s.fault ∧ t.refusal = s.refusal ∧ t.booted = s.booted

/-- In a state that is reset, without fault or refusal mark, and not Running, a step answers the same state with 0 cycles and no bus event as its outputs. (40_addressing.md R162, 47_flags_system.md R390, R391) -/
def Obligations.WaitingAndStoppedAreTerminal : Prop :=
  ∀ s : State, s.fault = none → s.refusal = none → s.booted = true → s.execState ≠ .running →
    step s = .next { s with cycles := 0, bus := [] }

/-- A state whose fault is set answers that fault, a state with a refusal mark (and no fault) that refusal, and a state with neither that has had no CPU reset the refusal notReset. That the stop is repeated is the model's form of "no step exists" (log 7, log 8, log 9). (10_state.md R40, 47_flags_system.md R395, 70_reset_and_hazards.md R473) -/
def Obligations.NoStepAfterFaultRefusalOrBeforeReset : Prop :=
  ∀ s : State,
    (∀ r, s.fault = some r → step s = .fault r) ∧
    (∀ r, s.fault = none → s.refusal = some r → step s = .refused r) ∧
    (s.fault = none → s.refusal = none → s.booted = false → step s = .refused .notReset)

/-- If a step of a state without fault answers a fault, the fault is NoMLIContext, the instruction at PC is a JSR to MLI_TRAP_ADDR, and no context is attached. (10_state.md R40, 48_os_call_trap.md R414, 60_exceptions.md R431) -/
def Obligations.OnlyATrappedJsrFaults : Prop :=
  ∀ (s : State) (r : Fault), s.fault = none → step s = .fault r →
    r = .noMLIContext ∧ s.cfg.ctx = false ∧ s.AtTrap

/-- If a step from Running answers a state that is not Running, the instruction at PC is WAI and the state is Waiting, or STP and Stopped. If a step starts in Waiting or Stopped, exec is unchanged. (10_state.md R39, 47_flags_system.md R390, R391, R392) -/
def Obligations.OnlyWaiAndStpLeaveRunning : Prop :=
  ∀ s t : State, step s = .next t →
    (s.execState = .running → t.execState ≠ .running →
      (instrAt s = .wai ∧ t.execState = .waiting) ∨ (instrAt s = .stp ∧ t.execState = .stopped)) ∧
    (s.execState ≠ .running → t.execState = s.execState)

/-- Take two states that agree in everything but the trace, TRACE_CAP and the outputs of the last call. Their steps end the same way: the same fault, the same refusal, or next states that agree in everything but the trace and TRACE_CAP, outputs included. (10_state.md R47, 60_exceptions.md R442, 20_memory.md R103) -/
def Obligations.TraceNeverAffectsExecution : Prop :=
  ∀ s s' : State, s.clearOutputs.withoutTrace = s'.clearOutputs.withoutTrace →
    (∀ t, step s = .next t → ∃ t', step s' = .next t' ∧ t'.withoutTrace = t.withoutTrace) ∧
    (∀ r, step s = .fault r → step s' = .fault r) ∧ (∀ r, step s = .refused r → step s' = .refused r)

/-- For a step that answers a next state and is not at a trapped JSR: the memory model after it (stores and Language Card) is the memory model before it with the bus events of the step replayed in order, and each read event carries the byte the read bus shows after all earlier events. (20_memory.md R70, R79, R83, R100, R101, R103, R110) -/
def Obligations.MemoryChangesOnlyThroughBusEvents : Prop :=
  ∀ s t : State, step s = .next t → ¬ s.AtTrap → t.mem = replay t.bus s.mem ∧ TrueReads t.bus s.mem

/-- For a step that answers a next state and is not at a trapped JSR: if none of its bus events is at one of the 16 addresses 0xC080 to 0xC08F, the Language-Card state is unchanged. (20_memory.md R79, R99, 70_reset_and_hazards.md R480) -/
def Obligations.LanguageCardFollowsSwitchAccesses : Prop :=
  ∀ s t : State, step s = .next t → ¬ s.AtTrap →
    (∀ e ∈ t.bus, e.addr &&& 0xFFF0 ≠ 0xC080) → t.mem.lc = s.mem.lc

/-- For every instruction and every state: under UNDOC_POLICY = nop, and with a context attached or MLI_TRAP_ADDR = none, the instruction answers a next state. (60_exceptions.md R430, R431, R438, 30_encoding.md R141) -/
def Obligations.EveryInstructionCompletes : Prop :=
  ∀ (i : Instr) (s : State), s.cfg.undocPolicy = .nop → (s.cfg.ctx = true ∨ s.cfg.mliTrapAddr = none) →
    ∃ t, exec i s = .next t

/-- Windows 0 to 12 read ram. Windows 13 to 15 read the ROM image (0x00 if none) while LC read is disabled; otherwise lc2 for window 13 with Bank2, and ram in every other case. (20_memory.md R88, D12, D13) -/
def Obligations.ReadBusFollowsLanguageCard : Prop :=
  ∀ (m : Banked) (a : Word),
    (bank a ≤ 12 → m.readMap a = Memory.read m.ram a.toNat) ∧
    (13 ≤ bank a → m.lc.readEnabled = false → m.readMap a =
      match m.rom with
      | some r => Memory.read r (a.toNat - 0xD000)
      | none => 0x00) ∧
    (13 ≤ bank a → m.lc.readEnabled = true → bank a = 13 ∧ m.lc.bank = .bank2 →
      m.readMap a = Memory.read m.lc2 (a.toNat % 0x1000)) ∧
    (13 ≤ bank a → m.lc.readEnabled = true → ¬ (bank a = 13 ∧ m.lc.bank = .bank2) →
      m.readMap a = Memory.read m.ram a.toNat)

/-- On canonical stores: windows 0 to 12 write the byte of ram; windows 13 to 15 write nothing while LC write is disabled, else the byte of lc2 for window 13 with Bank2, else the byte of ram. Every other byte of both stores reads as before, and the ROM and the Language Card are unchanged. (R89) -/
def Obligations.WriteBusFollowsLanguageCard : Prop :=
  ∀ (m : Banked) (a : Word) (v : Byte), m.wf = true →
    let m' := m.writeMap a v
    m'.rom = m.rom ∧ m'.lc = m.lc ∧
    (bank a ≤ 12 ∨ (m.lc.writeEnabled = true ∧ ¬ (bank a = 13 ∧ m.lc.bank = .bank2)) →
      m'.lc2 = m.lc2 ∧ ∀ k, Memory.read m'.ram k = if k = a.toNat then v else Memory.read m.ram k) ∧
    (13 ≤ bank a → m.lc.writeEnabled = false → m' = m) ∧
    (bank a = 13 → m.lc.writeEnabled = true → m.lc.bank = .bank2 →
      m'.ram = m.ram ∧ ∀ k, Memory.read m'.lc2 k = if k = a.toNat % 0x1000 then v else Memory.read m.lc2 k)

/-- On canonical stores: outside windows 13 to 15 a byte written reads back. Inside them it does when LC read and LC write are enabled; while LC read is disabled the read gives what it gave before; while LC write is disabled the write changes nothing. (20_memory.md R90, R88, R89) -/
def Obligations.WriteThenReadRoundTrip : Prop :=
  ∀ (m : Banked) (a : Word) (v : Byte), m.wf = true →
    (bank a ≤ 12 → (m.writeMap a v).readMap a = v) ∧
    (13 ≤ bank a → m.lc.readEnabled = true → m.lc.writeEnabled = true → (m.writeMap a v).readMap a = v) ∧
    (13 ≤ bank a → m.lc.readEnabled = false → (m.writeMap a v).readMap a =
      match m.rom with
      | some r => Memory.read r (a.toNat - 0xD000)
      | none => 0x00) ∧
    (13 ≤ bank a → m.lc.writeEnabled = false → m.writeMap a v = m) ∧
    (13 ≤ bank a → m.lc.writeEnabled = true →
      ({ m.writeMap a v with lc := { m.lc with readEnabled := true } } : Banked).readMap a = v)

/-- An address whose upper 12 bits are not 0xC08 gives false and changes nothing. At a switch the answer is true, the stores are unchanged, bit 3 selects the bank, commands 00 and 11 map RAM for reading; a candidate (01 or 11) read sets the latch and enables write if the latch was set, a candidate write clears the latch and leaves write enable; commands 00 and 10 clear the latch and disable write. Bit 2 takes no part (the spec marks that as derived), and the base 0xC080 is its decision D8. (20_memory.md R95, R96, R97, R98, R99, 00_scope.md R11, 92_eei_decisions.md D8) -/
def Obligations.SoftSwitchStateMachine : Prop :=
  ∀ (m : Banked) (a : Word) (isRead : Bool),
    (a &&& 0xFFF0 ≠ 0xC080 → m.applySoftSwitch a isRead = (false, m)) ∧
    (a &&& 0xFFF0 = 0xC080 → ∃ lc : LC, m.applySoftSwitch a isRead = (true, { m with lc := lc }) ∧
      (lc.bank = .bank1 ↔ a.getLsbD 3 = true) ∧
      (lc.readEnabled = true ↔ a.getLsbD 1 = a.getLsbD 0) ∧
      (a.getLsbD 0 = true → isRead = true → lc.latch = true ∧ lc.writeEnabled = (m.lc.latch || m.lc.writeEnabled)) ∧
      (a.getLsbD 0 = true → isRead = false → lc.latch = false ∧ lc.writeEnabled = m.lc.writeEnabled) ∧
      (a.getLsbD 0 = false → lc.latch = false ∧ lc.writeEnabled = false) ∧
      m.applySoftSwitch (a ^^^ 0x4) isRead = m.applySoftSwitch a isRead)

/-- From any Language-Card state, two candidate reads, with any reads or writes of addresses that are no switches between them, leave LC write enabled. After a write access or a non-candidate access to a switch, with any such accesses after it, one candidate read leaves write enable as that access left it. (20_memory.md R99, 70_reset_and_hazards.md R479, R480) -/
def Obligations.TwoCandidateReadsEnableWrite : Prop :=
  ∀ (m : Banked) (es : List BusEvent) (a b : Word) (v w : Byte), isSwitch a = true → isSwitch b = true →
    isCandidate b = true → (∀ e ∈ es, isSwitch e.addr = false) →
    (isCandidate a = true → (replay (.read a v :: es ++ [.read b w]) m).lc.writeEnabled = true) ∧
    ((replay (.write a v :: es ++ [.read b w]) m).lc.writeEnabled = ((BusEvent.write a v).apply m).lc.writeEnabled) ∧
    (isCandidate a = false → (replay (.read a v :: es ++ [.read b w]) m).lc.writeEnabled = false)

/-- The helpers over the two 16-window views give the byte-level maps, with no effect on the Language Card, and the bindings of both views depend on the Language Card alone. A CPU read gives the byte of, and a CPU write goes through, the views of the Language Card as all earlier accesses left it. (R87, R83) -/
def Obligations.BusViewsGiveTheMaps : Prop :=
  (∀ (m : Banked) (a : Word) (v : Byte), readByte m.readBus m a = m.readMap a ∧ writeByte m.writeBus m a v = m.writeMap a v ∧
    (m.writeMap a v).lc = m.lc) ∧
  (∀ m m' : Banked, m.lc = m'.lc → m.readBus = m'.readBus ∧ m.writeBus = m'.writeBus) ∧
  ∀ (es : List BusEvent) (s : State) (a : Word) (v : Byte),
    (memRead a (s.afterBus es)).1 = readByte (replay es s.mem).readBus (replay es s.mem) a ∧
    SameStores (writeByte (replay es s.mem).writeBus (replay es s.mem) a v) (memWrite a v (s.afterBus es)).mem

/-- For every address, read16LE and read24LE join the bytes at addr, addr + 1 and addr + 2 modulo 2^16, low byte first; at 0xFFFF these are 0xFFFF, 0x0000 and 0x0001. On canonical stores write16LE and write24LE through the write bus put byte k of the value at addr + k modulo 2^16, wherever that is: in ram, in lc2 (window 13 with Bank2), or nowhere (windows 13 to 15 while LC write is disabled); every other byte of both stores (in window 13 also the byte of the store not written), the ROM and the Language Card are unchanged, and where the addresses are in windows 0 to 12 reading back gives the value. readCountedString gives min(length, maxLen) bytes, the k-th at addr + 1 + k. (20_memory.md R73, R74, R75, R76, 20_memory.md R89) -/
def Obligations.MultiByteHelpersWrap : Prop :=
  (∀ (v : ReadView) (m : Banked) (a : Word),
    (read16LE v m a).toNat = (readByte v m a).toNat + 0x100 * (readByte v m (a + 1)).toNat ∧
    (read24LE v m a).toNat = (readByte v m a).toNat + 0x100 * (readByte v m (a + 1)).toNat +
      0x10000 * (readByte v m (a + 2)).toNat) ∧
  ((0xFFFF : Word) + 1 = 0x0000 ∧ (0xFFFF : Word) + 2 = 0x0001) ∧
  (∀ (m : Banked) (a w : Word), m.wf = true →
    let m' := write16LE m.writeBus m a w
    m'.lc = m.lc ∧ StoresOnlyAt [a, a + 1] m m' ∧
    PutsByte m m' a (BitVec.ofNat 8 w.toNat) ∧ PutsByte m m' (a + 1) (BitVec.ofNat 8 (w.toNat / 0x100)) ∧
    (bank a ≤ 12 → bank (a + 1) ≤ 12 → read16LE m'.readBus m' a = w)) ∧
  (∀ (m : Banked) (a : Word) (w : BitVec 24), m.wf = true →
    let m' := write24LE m.writeBus m a w
    m'.lc = m.lc ∧ StoresOnlyAt [a, a + 1, a + 2] m m' ∧
    PutsByte m m' a (BitVec.ofNat 8 w.toNat) ∧ PutsByte m m' (a + 1) (BitVec.ofNat 8 (w.toNat / 0x100)) ∧
    PutsByte m m' (a + 2) (BitVec.ofNat 8 (w.toNat / 0x10000)) ∧
    (bank a ≤ 12 → bank (a + 1) ≤ 12 → bank (a + 2) ≤ 12 → read24LE m'.readBus m' a = w)) ∧
  ∀ (v : ReadView) (m : Banked) (a : Word) (maxLen k : Nat),
    (readCountedString v m a maxLen)[k]? =
      if k < min (readByte v m a).toNat maxLen then some (readByte v m (a + 1 + BitVec.ofNat 16 k)) else none

/-- A list of another length gives SizeMismatch and no new state. A list of 12288 bytes gives the state with that image, whatever was loaded before: in every state byte k of the image is the k-th of the list, it shows at 0xD000 + k once LC read is disabled, and every field but the ROM is unchanged. (20_memory.md R92, R81, 60_exceptions.md R432) -/
def Obligations.LoadRomChecksTheSize : Prop :=
  ∀ (s : State) (bytes : List Byte),
    (bytes.length ≠ 12288 → s.loadROM bytes = .error .sizeMismatch) ∧
    (bytes.length = 12288 → ∃ rom, s.loadROM bytes = .ok { s with mem := { s.mem with rom := some rom } } ∧
      ∀ (k : Nat) (h : k < bytes.length), Memory.read rom k = bytes[k] ∧
        ({ s.mem with rom := some rom, lc := { s.mem.lc with readEnabled := false } } : Banked).readMap
          (BitVec.ofNat 16 (0xD000 + k)) = bytes[k])

/-- From every state that meets the invariant: CPU reset, memory reset, a loadROM that answers a state, the three LC setters, the host applySoftSwitch, a write of the host through any write view (one byte, 16 bits or 24 bits), the state that stands after a step however it ends, and the state that run(n) leaves however it ends, all meet it. In every state each LC setter writes its one field of the Language Card (setLCBank1 true gives Bank1, false gives Bank2), keeps the other three, the latch included (the spec's decision D14), and changes nothing else. (10_state.md R37, R44, R47, 20_memory.md R72, R74, R75, R92, R93, R94, R95, R102, 40_addressing.md R180, 70_reset_and_hazards.md R470, R471, 60_exceptions.md R430, 00_scope.md R9, 92_eei_decisions.md D14) -/
def Obligations.HostCallsKeepTheInvariant : Prop :=
  (∀ s : State, s.Inv →
    s.cpuReset.Inv ∧ s.memReset.Inv ∧ (∀ bytes t, s.loadROM bytes = .ok t → t.Inv) ∧
    (∀ b, (s.setLCReadEnabled b).Inv ∧ (s.setLCWriteEnabled b).Inv ∧ (s.setLCBank1 b).Inv) ∧
    (∀ a isRead, (s.applySoftSwitch a isRead).2.Inv) ∧ (s.after (step s)).Inv ∧ (∀ n, (run n s).state.Inv) ∧
    (∀ (v : WriteView) (a w : Word) (b : Byte) (q : BitVec 24),
      ({ s with mem := writeByte v s.mem a b } : State).Inv ∧ ({ s with mem := write16LE v s.mem a w } : State).Inv ∧
      ({ s with mem := write24LE v s.mem a q } : State).Inv)) ∧
  ∀ (s : State) (b : Bool),
    let lc := s.mem.lc
    let withLc := fun lc' : LC => ({ s with mem := { s.mem with lc := lc' } } : State)
    s.setLCReadEnabled b = withLc ⟨b, lc.writeEnabled, lc.bank, lc.latch⟩ ∧
    s.setLCWriteEnabled b = withLc ⟨lc.readEnabled, b, lc.bank, lc.latch⟩ ∧
    s.setLCBank1 true = withLc ⟨lc.readEnabled, lc.writeEnabled, .bank1, lc.latch⟩ ∧
    s.setLCBank1 false = withLc ⟨lc.readEnabled, lc.writeEnabled, .bank2, lc.latch⟩

/-- CPU reset reads 0xFFFC and 0xFFFD through the read bus as two bus reads, sets PC to that word, P to 0x24, SP to 0xFF, exec to Running and fault to none, returns no cycle count, and changes nothing else (A, X, Y, the memory model and the trace stay, and the Language Card with it: neither address is a switch). Not R470's words but the model's: the refusal mark stays (log 8, DEDUCED), the record that a CPU reset has happened is set (log 9, DEDUCED), and cycles holds 0 for "no count" (log 5, DESIGN CHOICE). (70_reset_and_hazards.md R470, R472, R473, 47_flags_system.md R395) -/
def Obligations.CpuResetEffect : Prop :=
  ∀ s : State, s.cpuReset =
    { s with
      pc := wordAt s.mem 0xFFFC, p := 0x24, sp := 0xFF, execState := .running, fault := none, booted := true
      cycles := 0, bus := [readEv s.mem 0xFFFC, readEv s.mem 0xFFFD] }

/-- After memory reset every byte of ram and lc2 reads 0x00, the Language Card is read-disabled, write-disabled, Bank1, latch clear, and nothing else has changed. That "all RAM" means ram and lc2 is the spec's decision D28. (20_memory.md R94, 10_state.md R50, 70_reset_and_hazards.md R471, 92_eei_decisions.md D28) -/
def Obligations.MemoryResetEffect : Prop :=
  ∀ s : State,
    (∀ k, Memory.read s.memReset.mem.ram k = 0x00) ∧ (∀ k, Memory.read s.memReset.mem.lc2 k = 0x00) ∧
    s.memReset = { s with mem := { s.memReset.mem with
      rom := s.mem.rom, lc := { readEnabled := false, writeEnabled := false, bank := .bank1, latch := false } } }

/-- Whatever the spec leaves unspecified at construction, but for A, X and Y, which log 1 sets to zero: construction with the parameters of log 3, then memory reset, then CPU reset, is State.reset. That State.reset is this boot with no ROM loaded (R474's loadROM left out) is the model's choice (log 2, DESIGN CHOICE), as are the outputs it keeps from the CPU reset (log 5, DESIGN CHOICE), the zeros (log 1, DESIGN CHOICE) and the parameters (log 3, DESIGN CHOICE). (70_reset_and_hazards.md R473, R474, 10_state.md R41, R50) -/
def Obligations.ResetIsTheBootOfTheMachine : Prop :=
  ∀ u : Unspecified, u.a = 0x00 → u.x = 0x00 → u.y = 0x00 →
    (State.construct Config.default u).memReset.cpuReset = State.reset

/-- run(0) is done with count 0 and changes nothing. When a step answers a next state, run(n + 1) is run(n) from it, with the count of that step added. When a step faults, run(n + 1) ends in that fault with the state before the step and its fault set. Running m + n steps, when the first m do not stop, is running m and then n, the counts added; when the first m steps stop, running more changes nothing. That run stops at a refusal too, with the refusal mark of an unassigned opcode set and otherwise the state as it was, and that the count at a stop is the sum of the steps before it, is the model's, where R180 speaks of a fault only (log 25, DEDUCED). (40_addressing.md R180, 60_exceptions.md R430, 47_flags_system.md R395) -/
def Obligations.RunIsTheSumOfItsSteps : Prop :=
  (∀ s : State, run 0 s = ⟨0, .done, s⟩) ∧
  (∀ (n : Nat) (s t : State), step s = .next t →
    run (n + 1) s = { run n t with cycles := t.cycles + (run n t).cycles }) ∧
  (∀ (n : Nat) (s : State) (r : Fault), step s = .fault r → run (n + 1) s = ⟨0, .fault r, { s with fault := some r }⟩) ∧
  (∀ (n : Nat) (s : State) (op : Byte) (a : Word), step s = .refused (.undocumented op a) →
    run (n + 1) s = ⟨0, .refused (.undocumented op a), { s with refusal := some (.undocumented op a) }⟩) ∧
  (∀ (n : Nat) (s : State) (r : Refusal), (∀ op a, r ≠ .undocumented op a) → step s = .refused r →
    run (n + 1) s = ⟨0, .refused r, s⟩) ∧
  (∀ (m n : Nat) (s : State), (run m s).ending = .done →
    run (m + n) s = { run n (run m s).state with cycles := (run m s).cycles + (run n (run m s).state).cycles }) ∧
  (∀ (m n : Nat) (s : State), (run m s).ending ≠ .done → run (m + n) s = run m s)

/-- Record leaves the trace alone when both addresses are at least 0xF800; otherwise it adds one to the newest entry if that is the same transition, and else adds an entry with count 1, dropping the oldest when the trace is then over its capacity. No other field changes. (10_state.md R48) -/
def Obligations.TransitionsAreRecorded : Prop :=
  ∀ (src dst : Word) (s : State), record src dst s = { s with trace := (record src dst s).trace } ∧
    (0xF800 ≤ src.toNat ∧ 0xF800 ≤ dst.toNat → (record src dst s).trace = s.trace) ∧
    (¬ (0xF800 ≤ src.toNat ∧ 0xF800 ≤ dst.toNat) →
      (∀ n es, s.trace = ⟨src, dst, n⟩ :: es → (record src dst s).trace = ⟨src, dst, n + 1⟩ :: es) ∧
      ((∀ n es, s.trace ≠ ⟨src, dst, n⟩ :: es) → (record src dst s).trace =
        if s.trace.length + 1 > s.cfg.traceCap then (⟨src, dst, 1⟩ :: s.trace).dropLast else ⟨src, dst, 1⟩ :: s.trace))

/-- From an empty trace, with a positive capacity, recording one unfiltered transition n times (n at least 1) leaves exactly one entry with count n; from any trace whose newest entry is another transition, the n records leave one new entry with count n on top of what one record leaves below it. (10_state.md R47, R48, 95_test_vectors.md T7) -/
def Obligations.RepeatedTransitionsCollapse : Prop :=
  ∀ (cap n : Nat) (src dst : Word) (t : List TraceEntry), 1 ≤ cap → filtered src dst = false →
    (∀ e es, t = e :: es → ¬ (e.src = src ∧ e.dst = dst)) →
    (Nat.iterate (recordIn cap src dst) (n + 1) []) = [⟨src, dst, n + 1⟩] ∧
    Nat.iterate (recordIn cap src dst) (n + 1) t = ⟨src, dst, n + 1⟩ :: (recordIn cap src dst t).tail

/-- For each memory form, the effective address, the page-crossed flag and the un-carried address as natural numbers: zero-page forms wrap modulo 256, absolute indexed and (zp),Y modulo 65536, the pointer of (zp,X) is at (nn + X) mod 256 and the next byte modulo 256, the flag is the carry of the low-byte addition. For JMP: the absolute target, the word at the operand with its high byte from the next address modulo 2^16, and the word at operand plus X, which reports the flag as the carry of the low-byte addition; the other two report false. (40_addressing.md R164, R165, R167, R168, R169, R170, R171, R172, 40_addressing.md R173, R174, 10_state.md R49) -/
def Obligations.AddressingModeArithmetic : Prop :=
  ∀ (s : State) (nn : Byte) (w : Word),
    let ptr := fun z : Nat => Memory.read s.mem.ram (z % 256) |>.toNat
    let word := fun z : Nat => ptr z + 256 * ptr (z + 1)
    let ea := fun m : Mem => (resolve m s).1.addr.toNat
    let crossed := fun m : Mem => (resolve m s).1.crossed
    let jump := fun t : Target => (resolveTarget t s).1
    ea (.zp nn) = nn.toNat ∧ ea (.zpx nn) = (nn.toNat + s.x.toNat) % 256 ∧ ea (.zpy nn) = (nn.toNat + s.y.toNat) % 256 ∧
    ea (.abs w) = w.toNat ∧ ea (.absx w) = (w.toNat + s.x.toNat) % 65536 ∧ ea (.absy w) = (w.toNat + s.y.toNat) % 65536 ∧
    ea (.izx nn) = word (nn.toNat + s.x.toNat) ∧ ea (.izy nn) = (word nn.toNat + s.y.toNat) % 65536 ∧
    ea (.izp nn) = word nn.toNat ∧
    (crossed (.absx w) = true ↔ w.toNat % 256 + s.x.toNat > 255) ∧
    (crossed (.absy w) = true ↔ w.toNat % 256 + s.y.toNat > 255) ∧
    (crossed (.izy nn) = true ↔ ptr nn.toNat + s.y.toNat > 255) ∧
    crossed (.zp nn) = false ∧ crossed (.zpx nn) = false ∧ crossed (.zpy nn) = false ∧ crossed (.abs w) = false ∧
    crossed (.izx nn) = false ∧ crossed (.izp nn) = false ∧
    (resolve (.absx w) s).1.uncarried.toNat = w.toNat / 256 * 256 + (w.toNat + s.x.toNat) % 256 ∧
    (resolve (.absy w) s).1.uncarried.toNat = w.toNat / 256 * 256 + (w.toNat + s.y.toNat) % 256 ∧
    (resolve (.izy nn) s).1.uncarried.toNat = 256 * ptr (nn.toNat + 1) + (ptr nn.toNat + s.y.toNat) % 256 ∧
    (jump (.abs w)).addr = w ∧
    (jump (.ind w)).addr.toNat = (s.mem.readMap w).toNat + 256 * (s.mem.readMap (w + 1)).toNat ∧
    (jump (.iax w)).addr.toNat = (s.mem.readMap (BitVec.ofNat 16 (w.toNat + s.x.toNat))).toNat +
      256 * (s.mem.readMap (BitVec.ofNat 16 (w.toNat + s.x.toNat + 1))).toNat ∧
    (jump (.abs w)).crossed = false ∧ (jump (.ind w)).crossed = false ∧
    ((jump (.iax w)).crossed = true ↔ w.toNat % 256 + s.x.toNat > 255)

/-- In every operand form and every state each completes: the register is the operand byte (the immediate, or the byte the read bus shows at the effective address), N and Z follow it, every other flag is kept, the bus reads are those of the form (with the dummy read on a page cross), no byte of memory changes, and no other register does. The counts are 2 immediate, 3 zero page, 4 zero page indexed, absolute and absolute indexed, 5 (zp),Y and (zp), 6 (zp,X), and one more on a page cross. (41_load_store_transfer.md R200, R201, R202, 40_addressing.md R175, R176, 30_encoding.md R140, section 7) -/
def Obligations.LoadsPutTheOperand : Prop :=
  ∀ (src : Src) (s : State),
    ReadsAndPuts (.lda src) src (fun v t => { t with a := v }) (fun v q => NZOf v q ∧ FlagsKeptBut [.n, .z] s.p q) s ∧
    ReadsAndPuts (.ldx src) src (fun v t => { t with x := v }) (fun v q => NZOf v q ∧ FlagsKeptBut [.n, .z] s.p q) s ∧
    ReadsAndPuts (.ldy src) src (fun v t => { t with y := v }) (fun v q => NZOf v q ∧ FlagsKeptBut [.n, .z] s.p q) s

/-- In every operand form and every state each completes with the write of A, X, Y or 0x00 at the effective address as its one data access, with no dummy read and a fixed count; no other byte of memory and no register or flag changes, and while LC write is disabled a store to windows 13 to 15 changes no byte. The counts are 3 zero page, 4 zero page indexed and absolute, 5 absolute indexed and (zp), 6 (zp,X) and (zp),Y. (41_load_store_transfer.md R203, R204, R205, R206, 20_memory.md R89, R101, 30_encoding.md R140, section 7) -/
def Obligations.StoresWriteTheEffectiveAddress : Prop :=
  ∀ (m : Mem) (s : State),
    Stores (.sta m) m s.a s ∧ Stores (.stx m) m s.x s ∧ Stores (.sty m) m s.y s ∧ Stores (.stz m) m 0x00 s

/-- TAX, TAY, TXA, TYA and TSX copy their source, INX, INY, DEX and DEY add or subtract one modulo 256, and each sets N and Z from the result, every other flag kept; TXS copies X to SP and changes no flag. Each completes in 2 cycles and changes nothing else. (41_load_store_transfer.md R207, R208, R209, R210, R211, R212, 45_incdec_shift.md R313, R314, R315, R316) -/
def Obligations.RegisterInstructions : Prop :=
  ∀ s : State,
    PutsNZ .tax (fun t => { t with x := s.a }) s.a s ∧ PutsNZ .tay (fun t => { t with y := s.a }) s.a s ∧
    PutsNZ .txa (fun t => { t with a := s.x }) s.x s ∧ PutsNZ .tya (fun t => { t with a := s.y }) s.y s ∧
    PutsNZ .tsx (fun t => { t with x := s.sp }) s.sp s ∧
    PutsNZ .inx (fun t => { t with x := s.x + 1 }) (s.x + 1) s ∧ PutsNZ .iny (fun t => { t with y := s.y + 1 }) (s.y + 1) s ∧
    PutsNZ .dex (fun t => { t with x := s.x - 1 }) (s.x - 1) s ∧ PutsNZ .dey (fun t => { t with y := s.y - 1 }) (s.y - 1) s ∧
    exec .txs s = .next { s with sp := s.x, cycles := 2 }

/-- Each writes its byte (A, X, Y, or P with B = 1 and U = 1) at 0x0100 + SP as its one data access, takes SP down by one modulo 256 and takes 3 cycles; no other byte of memory, register or flag changes. (42_stack.md R230, R232, R233, R234, R235, R240, 10_state.md R37) -/
def Obligations.PushesGoToTheStackPage : Prop :=
  ∀ s : State,
    PushesByte .pha s.a s ∧ PushesByte .phx s.x s ∧ PushesByte .phy s.y s ∧ PushesByte .php (s.p ||| 0x30) s

/-- Each takes SP up by one modulo 256, reads 0x0100 + SP as its one data access and takes 4 cycles. PLA, PLX and PLY put the byte in their register and set N and Z; PLP puts it in P with B = 0 and U = 1. The memory model is unchanged, and nothing else changes. (42_stack.md R231, R236, R237, R238, R239, R240) -/
def Obligations.PullsComeFromTheStackPage : Prop :=
  ∀ s : State,
    PullsByte .pla (fun v t => { t with a := v }) (fun v q => NZOf v q ∧ FlagsKeptBut [.n, .z] s.p q) s ∧
    PullsByte .plx (fun v t => { t with x := v }) (fun v q => NZOf v q ∧ FlagsKeptBut [.n, .z] s.p q) s ∧
    PullsByte .ply (fun v t => { t with y := v }) (fun v q => NZOf v q ∧ FlagsKeptBut [.n, .z] s.p q) s ∧
    PullsByte .plp (fun _ t => t)
      (fun v q => getF .b q = false ∧ getF .u q = true ∧ ∀ f, f ≠ .b → f ≠ .u → getF f q = getF f v) s

/-- In every operand form and every state each completes: A is the result byte of the binary or, with D set, the decimal algorithm on A, the operand and C; C and V are that algorithm's, N and Z follow the result byte, every other flag is kept; one more cycle with D set. No byte of memory and no other register changes. The counts are 2 immediate, 3 zero page, 4 zero page indexed, absolute and absolute indexed, 5 (zp),Y and (zp), 6 (zp,X), and one more on a page cross. (43_arith.md R250, R251, R252, R253, R254, R255, 30_encoding.md R140, section 7) -/
def Obligations.AddAndSubtractPutResultAndFlags : Prop :=
  ∀ (src : Src) (s : State),
    let add := if getF .d s.p then addDecimal s.a (operandOf src s) (getF .c s.p)
      else addBinary s.a (operandOf src s) (getF .c s.p)
    let sub := if getF .d s.p then subDecimal s.a (operandOf src s) (getF .c s.p)
      else subBinary s.a (operandOf src s) (getF .c s.p)
    let ends := fun (i : Instr) (r : Alu) => ∃ t, exec i s = .next t ∧
      t = { s.afterBus (srcAccesses src s) with
            a := r.val, p := t.p
            cycles := readCount src + (if srcCrosses src s then 1 else 0) + if getF .d s.p then 1 else 0 } ∧
      getF .c t.p = r.carry ∧ getF .v t.p = r.overflow ∧ NZOf r.val t.p ∧ FlagsKeptBut [.n, .v, .z, .c] s.p t.p ∧
      SameStores s.mem t.mem
    ends (.adc src) add ∧ ends (.sbc src) sub

/-- The binary sum is A + M + C modulo 256, C is set iff it exceeds 255, and V iff the signed sum is outside -128 to 127. The binary difference is A - M - (1 - C) modulo 256, C is set iff no borrow occurs, and V iff the signed difference is outside that range. (43_arith.md R251, R254, R261, R262) -/
def Obligations.BinaryArithmeticIsExact : Prop :=
  ∀ (a m : Byte) (c : Bool),
    (addBinary a m c).val.toNat = (a.toNat + m.toNat + c.toNat) % 256 ∧
    ((addBinary a m c).carry = true ↔ a.toNat + m.toNat + c.toNat > 255) ∧
    ((addBinary a m c).overflow = true ↔ a.toInt + m.toInt + (c.toNat : Int) < -128 ∨ a.toInt + m.toInt + (c.toNat : Int) > 127) ∧
    (subBinary a m c).val.toNat = (a.toNat + 256 - m.toNat - (1 - c.toNat)) % 256 ∧
    ((subBinary a m c).carry = true ↔ m.toNat + (1 - c.toNat) ≤ a.toNat) ∧
    ((subBinary a m c).overflow = true ↔
      a.toInt - m.toInt - (1 - (c.toNat : Int)) < -128 ∨ a.toInt - m.toInt - (1 - (c.toNat : Int)) > 127)

/-- For two bytes of two decimal digits each, the decimal sum is a byte of two decimal digits that stands for the sum with carry modulo 100, and C is set exactly when that sum is 100 or more. The two examples of R260 with other nibbles give its values. On all bytes V is set exactly when the signed intermediate s, the sum of the two high nibbles read as signed and of the adjusted low-nibble sum, is outside -128 to 127 (the spec's decision D31). (43_arith.md R252, R260, 92_eei_decisions.md D31) -/
def Obligations.DecimalAddOfBcd : Prop :=
  (∀ (a m : Byte) (c : Bool), IsBcd a → IsBcd m →
    IsBcd (addDecimal a m c).val ∧
    bcdValue (addDecimal a m c).val = (bcdValue a + bcdValue m + c.toNat) % 100 ∧
    ((addDecimal a m c).carry = true ↔ bcdValue a + bcdValue m + c.toNat ≥ 100)) ∧
  ((addDecimal 0x0F 0x01 false).val = 0x16 ∧ (addDecimal 0x0F 0x01 false).carry = false) ∧
  ((addDecimal 0xFF 0xFF true).val = 0x55 ∧ (addDecimal 0xFF 0xFF true).carry = true) ∧
  ∀ (a m : Byte) (c : Bool),
    let low := a.toNat % 16 + m.toNat % 16 + c.toNat
    let al : Nat := if low ≥ 10 then (low + 6) % 16 + 16 else low
    let s : Int := a.toInt / 16 * 16 + m.toInt / 16 * 16 + al
    ((addDecimal a m c).overflow = true ↔ s < -128 ∨ s > 127)

/-- For two bytes of two decimal digits each, the decimal difference with borrow is a byte of two decimal digits that stands for it modulo 100, and C is set exactly when no borrow occurred. On all bytes C and V are those of the binary subtract. (43_arith.md R255) -/
def Obligations.DecimalSubtractOfBcd : Prop :=
  ∀ (a m : Byte) (c : Bool),
    (subDecimal a m c).carry = (subBinary a m c).carry ∧ (subDecimal a m c).overflow = (subBinary a m c).overflow ∧
    (IsBcd a → IsBcd m →
      IsBcd (subDecimal a m c).val ∧
      bcdValue (subDecimal a m c).val = (bcdValue a + 100 - bcdValue m - (1 - c.toNat)) % 100 ∧
      ((subDecimal a m c).carry = true ↔ bcdValue m + (1 - c.toNat) ≤ bcdValue a))

/-- In every operand form and every state each completes: C is set iff the register is at least the operand, Z iff they are equal, N is bit 7 of the difference modulo 256; V and D are not read or written, every other flag is kept, and no register or byte of memory changes. The counts are 2 immediate, 3 zero page, 4 zero page indexed, absolute and absolute indexed, 5 (zp),Y and (zp), 6 (zp,X), and one more on a page cross. (43_arith.md R256, R257, R258, R259, 30_encoding.md R140, section 7) -/
def Obligations.ComparesSetOnlyFlags : Prop :=
  ∀ (src : Src) (s : State),
    let cmp := fun (r v q : Byte) => (getF .c q = decide (v.toNat ≤ r.toNat)) ∧ (getF .z q = decide (r = v)) ∧
      getF .n q = (r - v).getLsbD 7 ∧ FlagsKeptBut [.n, .z, .c] s.p q
    ReadsAndPuts (.cmp src) src (fun _ t => t) (cmp s.a) s ∧
    ReadsAndPuts (.cpx src) src (fun _ t => t) (cmp s.x) s ∧
    ReadsAndPuts (.cpy src) src (fun _ t => t) (cmp s.y) s

/-- In every operand form and every state each completes: AND, ORA and EOR put the bitwise result in A and set N and Z from it. BIT sets Z iff A and the operand share no bit; its memory forms also copy the operand's bits 7 and 6 to N and V. Every other flag is kept, and nothing else changes. The counts are 2 immediate, 3 zero page, 4 zero page indexed, absolute and absolute indexed, 5 (zp),Y and (zp), 6 (zp,X), and one more on a page cross. (44_logic_bit.md R280, R281, R282, R283, 30_encoding.md R140, section 7) -/
def Obligations.LogicPutsTheResultInA : Prop :=
  ∀ (src : Src) (s : State),
    let nz := fun (f : Byte → Byte) (v q : Byte) => NZOf (f v) q ∧ FlagsKeptBut [.n, .z] s.p q
    ReadsAndPuts (.and src) src (fun v t => { t with a := s.a &&& v }) (nz (s.a &&& ·)) s ∧
    ReadsAndPuts (.ora src) src (fun v t => { t with a := s.a ||| v }) (nz (s.a ||| ·)) s ∧
    ReadsAndPuts (.eor src) src (fun v t => { t with a := s.a ^^^ v }) (nz (s.a ^^^ ·)) s ∧
    ReadsAndPuts (.bit src) src (fun _ t => t) (fun v q =>
      getF .z q = decide (s.a &&& v = 0) ∧
      match src with
      | .imm _ => FlagsKeptBut [.z] s.p q
      | .mem _ => getF .n q = v.getLsbD 7 ∧ getF .v q = v.getLsbD 6 ∧ FlagsKeptBut [.z, .n, .v] s.p q) s

/-- In every memory form and every state each completes: the byte at the effective address is read, the last instruction byte is read again, and the byte with the bits of A set (TSB) or cleared (TRB) is written back; Z is set iff the old byte and A share no bit. Every other flag is kept, A and the other registers are unchanged, and no other byte of memory changes. The counts are 5 zero page and 6 absolute. (44_logic_bit.md R284, R285, 40_addressing.md R177, 30_encoding.md R140, section 7) -/
def Obligations.TestAndSetBits : Prop :=
  ∀ (m : Mem) (s : State),
    let z := fun v q : Byte => getF .z q = decide (s.a &&& v = 0) ∧ FlagsKeptBut [.z] s.p q
    ModifiesMem (.tsb m) m (fun v => v ||| s.a) z s ∧ ModifiesMem (.trb m) m (fun v => v &&& ~~~s.a) z s

/-- For n = 0 to 7 and every state each completes in 5 cycles: bit n of the zero-page byte becomes 0 (RMBn) or 1 (SMBn), its other bits, every other byte of memory, P and every register are unchanged. (44_logic_bit.md R286, R287, 30_encoding.md R136) -/
def Obligations.ResetAndSetMemoryBit : Prop :=
  ∀ (n : Fin 8) (nn : Byte) (s : State),
    let old := Memory.read s.mem.ram nn.toNat
    let ends := fun (i : Instr) (bit : Bool) => ∃ v : Byte,
      (∀ k : Nat, k < 8 → v.getLsbD k = if k = n.val then bit else old.getLsbD k) ∧
      ∃ t, exec i s = .next t ∧ t = { s.afterBus (rmwAccesses (.zp nn) v s) with cycles := 5 } ∧
        StoresOnlyAt [join 0x00 nn] s.mem t.mem ∧ (s.mem.wf = true → Memory.read t.mem.ram nn.toNat = v)
    ends (rmbAt n nn) false ∧ ends (smbAt n nn) true

/-- In the accumulator form and every memory form, in every state, each completes: the byte plus or minus one modulo 256 replaces it, N and Z follow it, every other flag is kept, the memory forms make the read, the dummy read and the write, their absolute,X count is fixed at 7, and no other byte or register changes. The counts are 2 accumulator, 5 zero page, 6 zero page,X and absolute, 7 absolute,X. (45_incdec_shift.md R310, R311, R312, 30_encoding.md R140, section 7) -/
def Obligations.IncrementAndDecrement : Prop :=
  let nz := fun (f : Byte → Byte) (v p q : Byte) => NZOf (f v) q ∧ FlagsKeptBut [.n, .z] p q
  Modifies .inc (fun v _ => v + 1) (nz (· + 1)) 7 (fun _ _ => 0) ∧
  Modifies .dec (fun v _ => v - 1) (nz (· - 1)) 7 (fun _ _ => 0)

/-- In the accumulator form and every memory form, in every state, each completes: ASL and ROL give 2M modulo 256 (plus the old C for ROL) with C from bit 7, LSR and ROR give M / 2 (plus 0x80 times the old C for ROR) with C from bit 0; N and Z follow the new byte, every other flag is kept, the memory forms make the read, the dummy read and the write, absolute,X pays one cycle on a page cross, and no other byte or register changes. The counts are 2 accumulator, 5 zero page, 6 zero page,X and absolute, 6 absolute,X before the page cross. (45_incdec_shift.md R310, R317, R318, R319, R320, 30_encoding.md R140, section 7) -/
def Obligations.ShiftsAndRotates : Prop :=
  let fl := fun (val : Byte → Byte → Byte) (bit : Nat) (v p q : Byte) =>
    NZOf (val v p) q ∧ getF .c q = v.getLsbD bit ∧ FlagsKeptBut [.n, .z, .c] p q
  let asl := fun v _ : Byte => BitVec.ofNat 8 (2 * v.toNat)
  let lsr := fun v _ : Byte => BitVec.ofNat 8 (v.toNat / 2)
  let rol := fun v p : Byte => BitVec.ofNat 8 (2 * v.toNat + (getF .c p).toNat)
  let ror := fun v p : Byte => BitVec.ofNat 8 (v.toNat / 2 + 128 * (getF .c p).toNat)
  Modifies .asl asl (fl asl 7) 6 absxCross ∧ Modifies .lsr lsr (fl lsr 0) 6 absxCross ∧
  Modifies .rol rol (fl rol 7) 6 absxCross ∧ Modifies .ror ror (fl ror 0) 6 absxCross

/-- In every state each form completes: PC is the operand word, the word at it (its high byte from the next address modulo 2^16, with no page wrap), or the word at operand plus X; the transition from the opcode address is recorded; the pointer reads are the only data accesses; nothing else changes. (46_control.md R340, 40_addressing.md R167, R173, R174) -/
def Obligations.JumpsGoToTheirTarget : Prop :=
  ∀ (w : Word) (s : State),
    let goes := fun (es : List BusEvent) (target : Word) (n : Nat) =>
      ({ s.afterBus es with
         pc := target, trace := recordIn s.cfg.traceCap (s.pc - 3) target s.trace, cycles := n } : State)
    let reads := fun q : Word => [readEv s.mem q, readEv s.mem (q + 1)]
    exec (.jmp (.abs w)) s = .next (goes [] w 3) ∧
    exec (.jmp (.ind w)) s = .next (goes (reads w) (wordAt s.mem w) 6) ∧
    exec (.jmp (.iax w)) s = .next (goes (reads (w + zext s.x)) (wordAt s.mem (w + zext s.x)) 6) ∧
    ∀ q : Word, SameStores s.mem (replay (reads q) s.mem)

/-- A JSR whose target is not the trap address completes in every state: next - 1 goes to the stack high byte first, SP goes down by 2, PC is the target, the transition is recorded; no other byte, register or flag changes. (46_control.md R341, 48_os_call_trap.md R410) -/
def Obligations.JsrPushesItsReturnAddress : Prop :=
  ∀ (w : Word) (s : State), s.cfg.mliTrapAddr ≠ some w →
    ∃ t, exec (.jsr w) s = .next t ∧
      t = { s.afterBus [.write (stackAddr s.sp) (hi (s.pc - 1)), .write (stackAddr (s.sp - 1)) (lo (s.pc - 1))] with
            sp := s.sp - 2, pc := w, trace := recordIn s.cfg.traceCap (s.pc - 3) w s.trace, cycles := 6 } ∧
      StoresOnlyAt [stackAddr s.sp, stackAddr (s.sp - 1)] s.mem t.mem

/-- RTS completes in every state: PC is the pulled word plus one modulo 2^16, SP goes up by 2, the transition is recorded, and nothing else changes. On canonical stores, an RTS in any state with the SP and memory model that a JSR left returns to the address after that JSR with the SP it had. (46_control.md R341, R342, R362) -/
def Obligations.RtsReturnsPastTheCall : Prop :=
  (∀ s : State,
    let word := wordAt s.mem (stackAddr (s.sp + 1))
    let target := join (s.mem.readMap (stackAddr (s.sp + 2))) (s.mem.readMap (stackAddr (s.sp + 1))) + 1
    (s.sp ≠ 0xFE → target = word + 1) ∧
    exec .rts s = .next
      { s with
        pc := target, sp := s.sp + 2, trace := recordIn s.cfg.traceCap (s.pc - 1) target s.trace, cycles := 6
        bus := s.bus ++ [readEv s.mem (stackAddr (s.sp + 1)), readEv s.mem (stackAddr (s.sp + 2))] }) ∧
  ∀ (w : Word) (s t u : State), s.mem.wf = true → s.cfg.mliTrapAddr ≠ some w → exec (.jsr w) s = .next t →
    u.sp = t.sp → u.mem = t.mem → ∃ v, exec .rts u = .next v ∧ v.pc = s.pc ∧ v.sp = s.sp

/-- BRK completes in every state, PC being the byte after its opcode: start + 2 goes to the stack high byte first, then P with bits 4 and 5 set, SP goes down by 3, I is set and D cleared, every other flag kept, PC is the word at 0xFFFE through the read bus, the transition is recorded, the signature byte is not read; no other byte or register changes. (46_control.md R343, 60_exceptions.md R435, 20_memory.md R81) -/
def Obligations.BrkEntersItsHandler : Prop :=
  ∀ (ss : Byte) (s : State), ∃ t, exec (.brk ss) s = .next t ∧
    t = { s.afterBus [.write (stackAddr s.sp) (hi (s.pc - 1 + 2)), .write (stackAddr (s.sp - 1)) (lo (s.pc - 1 + 2)),
            .write (stackAddr (s.sp - 2)) (s.p ||| 0x30), readEv s.mem 0xFFFE, readEv s.mem 0xFFFF] with
          sp := s.sp - 3, p := t.p, pc := wordAt s.mem 0xFFFE
          trace := recordIn s.cfg.traceCap (s.pc - 1) (wordAt s.mem 0xFFFE) s.trace, cycles := 7 } ∧
    getF .i t.p = true ∧ getF .d t.p = false ∧ FlagsKeptBut [.i, .d] s.p t.p ∧
    StoresOnlyAt [stackAddr s.sp, stackAddr (s.sp - 1), stackAddr (s.sp - 2)] s.mem t.mem

/-- RTI completes in every state: P is the pulled byte with B = 0 and U = 1, PC the word pulled after it, SP goes up by 3, the transition is recorded, nothing else changes. On canonical stores, an RTI in any state with the SP and memory model that a BRK left goes to start + 2 of that BRK, with its SP and its flags C, Z, I, D, V and N. (46_control.md R343, R344, 60_exceptions.md R436) -/
def Obligations.RtiReturnsFromBrk : Prop :=
  (∀ s : State,
    let at' := fun k : Byte => s.mem.readMap (stackAddr (s.sp + k))
    ∃ t, exec .rti s = .next t ∧
      t = { s with
            pc := join (at' 3) (at' 2), sp := s.sp + 3, p := t.p, cycles := 6
            trace := recordIn s.cfg.traceCap (s.pc - 1) (join (at' 3) (at' 2)) s.trace
            bus := s.bus ++ [readEv s.mem (stackAddr (s.sp + 1)), readEv s.mem (stackAddr (s.sp + 2)),
              readEv s.mem (stackAddr (s.sp + 3))] } ∧
      getF .b t.p = false ∧ getF .u t.p = true ∧ ∀ f, f ≠ .b → f ≠ .u → getF f t.p = getF f (at' 1)) ∧
  ∀ (ss : Byte) (s t u : State), s.mem.wf = true → exec (.brk ss) s = .next t → u.sp = t.sp → u.mem = t.mem →
    ∃ v, exec .rti u = .next v ∧ v.pc = s.pc - 1 + 2 ∧ v.sp = s.sp ∧ ∀ f, f ≠ .b → f ≠ .u → getF f v.p = getF f s.p

/-- In every state each completes: taken it goes to the address after it plus the sign-extended displacement modulo 2^16, is recorded, and pays its taken cycle (none for BRA, whose base is 3) and one more across a page; not taken only the count of 2 is set. No flag, register or byte of memory changes. (46_control.md R350, R351, R352, R353, R354, R355, R356, R357, R358, R359, 40_addressing.md R178) -/
def Obligations.BranchesTestTheirFlag : Prop :=
  ∀ (rr : Byte) (s : State),
    Branches (.bpl rr) (getF .n s.p = false) 2 1 rr s ∧ Branches (.bmi rr) (getF .n s.p = true) 2 1 rr s ∧
    Branches (.bvc rr) (getF .v s.p = false) 2 1 rr s ∧ Branches (.bvs rr) (getF .v s.p = true) 2 1 rr s ∧
    Branches (.bcc rr) (getF .c s.p = false) 2 1 rr s ∧ Branches (.bcs rr) (getF .c s.p = true) 2 1 rr s ∧
    Branches (.bne rr) (getF .z s.p = false) 2 1 rr s ∧ Branches (.beq rr) (getF .z s.p = true) 2 1 rr s ∧
    Branches (.bra rr) True 3 0 rr s

/-- For n = 0 to 7 and every state each completes: the zero-page byte is read, then the displacement byte is fetched; the branch is taken exactly when bit n is 0 (BBRn) or 1 (BBSn), to start + 3 plus the signed displacement, at 5 cycles, one more taken and one more across a page. No flag, register or byte of memory changes. (46_control.md R350, R360, R361, 40_addressing.md R178) -/
def Obligations.BitBranchesTestTheirBit : Prop :=
  ∀ (n : Fin 8) (nn rr : Byte) (s : State),
    BitBranches (bbrAt n nn rr) ((Memory.read s.mem.ram nn.toNat).getLsbD n.val = false) nn rr s ∧
    BitBranches (bbsAt n nn rr) ((Memory.read s.mem.ram nn.toNat).getLsbD n.val = true) nn rr s

/-- Each completes in every state in 2 cycles: its flag has its value, every other flag is kept, and nothing else changes. (47_flags_system.md R380, R381, R382, R383, R384, R385, R386) -/
def Obligations.FlagInstructionsWriteOneFlag : Prop :=
  ∀ s : State,
    SetsFlag .clc .c false s ∧ SetsFlag .sec .c true s ∧ SetsFlag .cli .i false s ∧ SetsFlag .sei .i true s ∧
    SetsFlag .cld .d false s ∧ SetsFlag .sed .d true s ∧ SetsFlag .clv .v false s

/-- In every state: NOP sets only its count of 2; WAI and STP set exec to Waiting and Stopped with a count of 3 and change nothing else. (47_flags_system.md R387, R390, R391) -/
def Obligations.NopWaiAndStp : Prop :=
  ∀ s : State,
    exec .nop s = .next { s with cycles := 2 } ∧
    exec .wai s = .next { s with execState := .waiting, cycles := 3 } ∧
    exec .stp s = .next { s with execState := .stopped, cycles := 3 }

/-- Under UNDOC_POLICY = nop each of the four formats only sets its count (1; 2; 3 for 0x44 and 4 for the other u2zp opcodes; 8 for 0x5C and 4 for 0xDC and 0xFC); under refuse each is a refusal with the opcode and its address. The refusal marks the state; that a step of the marked state without a fault answers the same refusal again is the model's form of "keeps a refusal mark from then on" (log 8, DEDUCED). (47_flags_system.md R395, R396, 30_encoding.md R142, 60_exceptions.md R430) -/
def Obligations.UnassignedOpcodesFollowThePolicy : Prop :=
  ∀ (op b : Byte) (w : Word) (s : State),
    (s.cfg.undocPolicy = .nop →
      exec (.nopU1 op) s = .next { s with cycles := 1 } ∧ exec (.nopU2 op b) s = .next { s with cycles := 2 } ∧
      exec (.nopU2zp op b) s = .next { s with cycles := if op = 0x44 then 3 else 4 } ∧
      exec (.nopU3 op w) s = .next { s with cycles := if op = 0x5C then 8 else 4 }) ∧
    (s.cfg.undocPolicy = .refuse →
      exec (.nopU1 op) s = .refused (.undocumented op (s.pc - 1)) ∧
      exec (.nopU2 op b) s = .refused (.undocumented op (s.pc - 2)) ∧
      exec (.nopU2zp op b) s = .refused (.undocumented op (s.pc - 2)) ∧
      exec (.nopU3 op w) s = .refused (.undocumented op (s.pc - 3))) ∧
    s.after (.refused (.undocumented op w)) = { s with refusal := some (.undocumented op w) } ∧
    (s.fault = none → step (s.after (.refused (.undocumented op w))) = .refused (.undocumented op w))

/-- A JSR to MLI_TRAP_ADDR with a context attached completes in every state: the three descriptor bytes are read in order, the context answers for the call number, the parameter block and the memory model as those reads left it; A is the status, C is set iff it is not 0, every other flag is kept, PC is start + 6, the transition is recorded, ram, lc2 and lc are as the context left them, the ROM, SP and exec are unchanged and the count is 6. The statement holds for every answer of the context (free value, log 4). (48_os_call_trap.md R410, R411, R412, R413, R415, R416, R417, R418) -/
def Obligations.TrappedJsrCallsTheContext : Prop :=
  ∀ (w : Word) (s : State), s.cfg.mliTrapAddr = some w → s.cfg.ctx = true →
    let es := [readEv s.mem s.pc, readEv s.mem (s.pc + 1), readEv s.mem (s.pc + 2)]
    let m1 := replay es s.mem
    let r := Config.osDispatch s.osCalls (s.mem.readMap s.pc) (join (s.mem.readMap (s.pc + 2)) (s.mem.readMap (s.pc + 1))) m1
    ∃ t, exec (.jsr w) s = .next t ∧
      t = { s with
            a := r.status, p := t.p, pc := s.pc - 3 + 6
            mem := { m1 with ram := writeRam r.ramWrites m1.ram, lc2 := writeLc2 r.lc2Writes m1.lc2, lc := r.lc }
            bus := s.bus ++ es, trace := recordIn s.cfg.traceCap (s.pc - 3) (s.pc - 3 + 6) s.trace
            cycles := 6, osCalls := s.osCalls + 1 } ∧
      getF .c t.p = decide (r.status ≠ 0) ∧ FlagsKeptBut [.c] s.p t.p ∧ t.mem.rom = s.mem.rom

/-- In a ready state at a JSR to MLI_TRAP_ADDR with no context attached, the step is the fault NoMLIContext; the state that stands is the state before the step with only its fault set; and that state takes no further step until a CPU reset, which clears the fault (R430, R470; the spec's decision D19). That a step of it answers the same fault again is the model's form of "no further step exists" (log 7, DEDUCED). (48_os_call_trap.md R414, 10_state.md R40, 60_exceptions.md R430, 70_reset_and_hazards.md R470, 92_eei_decisions.md D19) -/
def Obligations.TrapWithoutContextKeepsTheState : Prop :=
  ∀ s : State, s.Ready → s.AtTrap → s.cfg.ctx = false →
    step s = .fault .noMLIContext ∧
    s.after (step s) = { s with fault := some .noMLIContext } ∧
    step (s.after (step s)) = .fault .noMLIContext ∧ (s.after (step s)).cpuReset = s.cpuReset
end

