-- ==== Sys2Proof/Laws/Bits.lean ====
section
/-! SUPPORT. Slices, joins and extensions as natural numbers, and the address of a stack byte. -/

namespace Sys2Proof.Machine

theorem hi_toNat (w : Word) : (hi w).toNat = w.toNat / 256 := by
  have := w.isLt
  simp only [hi, BitVec.toNat_ofNat]; omega

theorem lo_toNat (w : Word) : (lo w).toNat = w.toNat % 256 := by
  simp only [lo, BitVec.toNat_ofNat]

theorem join_toNat (h l : Byte) : (join h l).toNat = h.toNat * 256 + l.toNat := by
  have := h.isLt; have := l.isLt
  simp only [join, BitVec.toNat_ofNat]; omega

theorem zext_toNat (b : Byte) : (zext b).toNat = b.toNat := by
  have := b.isLt
  simp only [zext, BitVec.toNat_ofNat]; omega

@[simp] theorem hi_join (h l : Byte) : hi (join h l) = h := by
  apply BitVec.eq_of_toNat_eq
  have := h.isLt; have := l.isLt
  rw [hi_toNat, join_toNat]; omega

@[simp] theorem lo_join (h l : Byte) : lo (join h l) = l := by
  apply BitVec.eq_of_toNat_eq
  have := h.isLt; have := l.isLt
  rw [lo_toNat, join_toNat]; omega

@[simp] theorem join_hi_lo (w : Word) : join (hi w) (lo w) = w := by
  apply BitVec.eq_of_toNat_eq
  rw [join_toNat, hi_toNat, lo_toNat]; omega

theorem stackAddr_toNat (sp : Byte) : (stackAddr sp).toNat = 256 + sp.toNat := by
  rw [stackAddr, join_toNat]; rfl

theorem bank_lt (a : Word) : bank a < 16 := by
  have := a.isLt; unfold bank; omega

theorem offset_lt (a : Word) : offset a < lc2Size := by
  unfold offset lc2Size; omega

theorem bank_zext (b : Byte) : bank (zext b) = 0 := by
  have := b.isLt; rw [bank, zext_toNat]; omega

theorem bank_stackAddr (sp : Byte) : bank (stackAddr sp) = 0 := by
  have := sp.isLt; rw [bank, stackAddr_toNat]; omega

/-- A switch address lies in window 12. -/
theorem bank_of_isSwitch (a : Word) (h : isSwitch a = true) : bank a = 12 := by
  simp only [isSwitch, lcSwitchBase, beq_iff_eq] at h
  unfold bank; omega

theorem isSwitch_eq_false_of_bank (a : Word) (h : bank a ≠ 12) : isSwitch a = false := by
  cases hs : isSwitch a with
  | false => rfl
  | true => exact absurd (bank_of_isSwitch a hs) h

@[simp] theorem isSwitch_zext (b : Byte) : isSwitch (zext b) = false :=
  isSwitch_eq_false_of_bank _ (by simp [bank_zext])

@[simp] theorem isSwitch_stackAddr (sp : Byte) : isSwitch (stackAddr sp) = false :=
  isSwitch_eq_false_of_bank _ (by simp [bank_stackAddr])

/-- Where the un-carried address of a page-crossing access is a switch, the effective address lies in window 12 (page 0xC1). -/
theorem bank_indexed_of_switch (w : Word) (r : Byte) (hc : (Ea.indexed w r).crossed = true)
    (hs : isSwitch (Ea.indexed w r).uncarried = true) : bank (Ea.indexed w r).addr = 12 := by
  have hw := w.isLt; have hr := r.isLt
  simp only [Ea.indexed, decide_eq_true_eq, isSwitch, lcSwitchBase, beq_iff_eq, bank, join_toNat, hi_toNat, lo_toNat,
    BitVec.toNat_add, zext_toNat] at *
  omega

end Sys2Proof.Machine
end

