-- ==== Sys2Proof/Laws/Flags.lean ====
section
/-! SUPPORT. Reading a flag after each flag computation. -/

namespace Sys2Proof.Machine

theorem Flag.pos_lt (f : Flag) : f.pos < 8 := by cases f <;> decide

theorem Flag.pos_inj (f g : Flag) : f.pos = g.pos ↔ f = g := by cases f <;> cases g <;> decide

theorem getF_setF (f g : Flag) (v : Bool) (p : Byte) : getF f (setF g v p) = if f = g then v else getF f p := by
  have hf := f.pos_lt
  have hg := g.pos_lt
  have hi := Flag.pos_inj f g
  by_cases h : f = g
  · subst h
    cases v <;> simp [getF, setF, hf]
  · have hne : f.pos ≠ g.pos := fun e => h (hi.1 e)
    rw [if_neg h]
    rcases Nat.lt_or_gt_of_ne hne with hlt | hgt
    · cases v <;> simp [getF, setF, hf, hlt]
    · have h0 : ¬ (f.pos - g.pos = 0) := by omega
      cases v <;> simp [getF, setF, hf, h0]

@[simp] theorem getF_setF_same (f : Flag) (v : Bool) (p : Byte) : getF f (setF f v p) = v := by simp [getF_setF]

theorem getF_setF_other (f g : Flag) (v : Bool) (p : Byte) (h : f ≠ g) : getF f (setF g v p) = getF f p := by
  simp [getF_setF, h]

theorem forceU_eq_setF (p : Byte) : forceU p = setF .u true p := rfl

theorem getF_forceU (f : Flag) (p : Byte) : getF f (forceU p) = if f = .u then true else getF f p := by
  rw [forceU_eq_setF, getF_setF]

theorem pushedP_eq_setF (p : Byte) : pushedP p = setF .u true (setF .b true p) := by
  simp only [pushedP, setF, Flag.pos, if_true, BitVec.or_assoc]
  rfl

theorem getF_pushedP (f : Flag) (p : Byte) : getF f (pushedP p) = if f = .u ∨ f = .b then true else getF f p := by
  rw [pushedP_eq_setF, getF_setF, getF_setF]
  cases f <;> simp

theorem pulledP_eq_setF (v : Byte) : pulledP v = setF .b false (setF .u true v) := rfl

theorem getF_pulledP (f : Flag) (v : Byte) :
    getF f (pulledP v) = if f = .b then false else if f = .u then true else getF f v := by
  rw [pulledP_eq_setF, getF_setF, getF_setF]

theorem getF_setNZ (f : Flag) (v p : Byte) :
    getF f (setNZ v p) = if f = .z then v == 0 else if f = .n then v.getLsbD 7 else getF f p := by
  rw [setNZ, getF_setF, getF_setF]

theorem getF_aluP (f : Flag) (r : Alu) (p : Byte) :
    getF f (aluP r p) = if f = .z then r.val == 0 else if f = .n then r.val.getLsbD 7
      else if f = .v then r.overflow else if f = .c then r.carry else getF f p := by
  rw [aluP, getF_setNZ, getF_setF, getF_setF]

theorem getF_compareP (f : Flag) (r m p : Byte) :
    getF f (compareP r m p) = if f = .z then r - m == 0 else if f = .n then (r - m).getLsbD 7
      else if f = .c then decide (m.toNat ≤ r.toNat) else getF f p := by
  rw [compareP, getF_setNZ, getF_setF]

/-- Two status bytes with the same flags are equal. -/
theorem byte_ext_getF (p q : Byte) (h : ∀ f, getF f p = getF f q) : p = q := by
  apply BitVec.eq_of_getLsbD_eq
  intro i hi
  have := h .c; have := h .z; have := h .i; have := h .d; have := h .b; have := h .u; have := h .v; have := h .n
  simp only [getF, Flag.pos] at *
  interval_cases i <;> assumption

/-- What a flag computation must keep for the invariant: B. -/
theorem getF_b_forceU (p : Byte) : getF .b (forceU p) = getF .b p := by simp [getF_forceU]

@[simp] theorem getF_u_forceU (p : Byte) : getF .u (forceU p) = true := by simp [getF_forceU]

end Sys2Proof.Machine
end

