-- ==== Sys2Proof/Laws/Memory.lean ====
section
/-! SUPPORT. The laws of one store: read after write, and that every operation keeps the canonical form. -/

namespace Sys2Proof.Machine

theorem Memory.wfFrom_mono (size : Nat) {lo' lo : Nat} (m : Memory) (hle : lo' ≤ lo)
    (h : Memory.wfFrom size lo m = true) : Memory.wfFrom size lo' m = true := by
  cases m with
  | nil => rfl
  | cons e m =>
    obtain ⟨k, v⟩ := e
    simp only [Memory.wfFrom, Bool.and_eq_true, decide_eq_true_eq] at h ⊢
    exact ⟨⟨⟨by omega, h.1.1.2⟩, h.1.2⟩, h.2⟩

/-- An address below every listed one reads as unlisted. -/
theorem Memory.read_below (size lo : Nat) (m : Memory) (h : Memory.wfFrom size lo m = true) (a : Nat) (ha : a < lo) :
    Memory.read m a = Memory.fill := by
  induction m generalizing lo with
  | nil => rfl
  | cons e m ih =>
    obtain ⟨k, v⟩ := e
    simp only [Memory.wfFrom, Bool.and_eq_true, decide_eq_true_eq] at h
    rw [Memory.read, if_neg (by omega)]
    exact ih (k + 1) h.2 (by omega)

theorem Memory.read_write_same (size lo : Nat) (m : Memory) (h : Memory.wfFrom size lo m = true) (a : Nat) (b : Byte) :
    Memory.read (Memory.write m a b) a = b := by
  induction m generalizing lo with
  | nil =>
    by_cases hb : b = Memory.fill <;> simp [Memory.write, Memory.read, hb]
  | cons e m ih =>
    obtain ⟨k, v⟩ := e
    simp only [Memory.wfFrom, Bool.and_eq_true, decide_eq_true_eq] at h
    by_cases h1 : a < k
    · by_cases hb : b = Memory.fill
      · have := Memory.read_below size (k + 1) m h.2 a (by omega)
        simp [Memory.write, h1, hb, Memory.read, show k ≠ a by omega, this]
      · simp [Memory.write, h1, hb, Memory.read]
    · by_cases h2 : a = k
      · by_cases hb : b = Memory.fill
        · have := Memory.read_below size (k + 1) m h.2 a (by omega)
          simpa [Memory.write, h2, hb] using h2 ▸ this
        · simp [Memory.write, h2, hb, Memory.read]
      · simp [Memory.write, h1, h2, Memory.read, show k ≠ a by omega, ih (k + 1) h.2]

theorem Memory.read_write_other (m : Memory) (a k : Nat) (b : Byte) (h : k ≠ a) :
    Memory.read (Memory.write m a b) k = Memory.read m k := by
  induction m with
  | nil => by_cases hb : b = Memory.fill <;> simp [Memory.write, Memory.read, hb, Ne.symm h]
  | cons e m ih =>
    obtain ⟨j, v⟩ := e
    by_cases h1 : a < j
    · by_cases hb : b = Memory.fill <;> simp [Memory.write, h1, hb, Memory.read, Ne.symm h]
    · by_cases h2 : a = j
      · by_cases hb : b = Memory.fill <;> simp [Memory.write, h2, hb, Memory.read, show j ≠ k by omega]
      · simp [Memory.write, h1, h2, Memory.read, ih]

theorem Memory.wfFrom_write (size lo : Nat) (m : Memory) (a : Nat) (b : Byte) (h : Memory.wfFrom size lo m = true)
    (hlo : lo ≤ a) (ha : a < size) : Memory.wfFrom size lo (Memory.write m a b) = true := by
  induction m generalizing lo with
  | nil => by_cases hb : b = Memory.fill <;> simp [Memory.write, Memory.wfFrom, hb, hlo, ha]
  | cons e m ih =>
    obtain ⟨k, v⟩ := e
    simp only [Memory.wfFrom, Bool.and_eq_true, decide_eq_true_eq] at h
    by_cases h1 : a < k
    · by_cases hb : b = Memory.fill
      · simp [Memory.write, h1, hb, Memory.wfFrom, h.1.1.1, h.1.1.2, h.2, h.1.2] at h ⊢
      · have h12 := h.1.2
        simp [Memory.write, h1, hb, Memory.wfFrom, hlo, ha, h.1.1.2, h.2] at h12 ⊢
        exact h12
    · by_cases h2 : a = k
      · by_cases hb : b = Memory.fill
        · simpa [Memory.write, h2, hb] using Memory.wfFrom_mono size m (by omega) h.2
        · subst h2; simp [Memory.write, hb, Memory.wfFrom, hlo, ha, h.2]
      · have := ih (k + 1) h.2 (by omega)
        have h12 := h.1.2
        simp [Memory.write, h1, h2, Memory.wfFrom, h.1.1.1, h.1.1.2, this] at h12 ⊢
        exact h12

/-- A write keeps the canonical form. -/
theorem Memory.wf_write (size : Nat) (m : Memory) (a : Nat) (b : Byte) (h : Memory.wf size m = true) (ha : a < size) :
    Memory.wf size (Memory.write m a b) = true := Memory.wfFrom_write size 0 m a b h (Nat.zero_le _) ha

theorem Memory.wf_writeAll (size : Nat) (bs : List Byte) (m : Memory) (base : Nat) (h : Memory.wf size m = true)
    (hb : base + bs.length ≤ size) : Memory.wf size (Memory.writeAll m base bs) = true := by
  induction bs generalizing m base with
  | nil => exact h
  | cons b bs ih =>
    simp only [List.length_cons] at hb
    exact ih _ _ (Memory.wf_write size m base b h (by omega)) (by omega)

theorem Memory.read_write (size : Nat) (m : Memory) (h : Memory.wf size m = true) (a k : Nat) (b : Byte) :
    Memory.read (Memory.write m a b) k = if k = a then b else Memory.read m k := by
  by_cases hk : k = a
  · subst hk; simp [Memory.read_write_same size 0 m h]
  · simp [hk, Memory.read_write_other m a k b hk]

/-- Equal reads make equal stores: the form is canonical. -/
theorem Memory.ext_wfFrom (size lo : Nat) (m m' : Memory) (h : Memory.wfFrom size lo m = true)
    (h' : Memory.wfFrom size lo m' = true) (heq : ∀ a, Memory.read m a = Memory.read m' a) : m = m' := by
  induction m generalizing lo m' with
  | nil =>
    cases m' with
    | nil => rfl
    | cons e m' =>
      obtain ⟨k, v⟩ := e
      have := heq k
      simp only [Memory.wfFrom, Bool.and_eq_true, bne_iff_ne] at h'
      simp only [Memory.read, if_true] at this
      exact absurd this.symm h'.1.2
  | cons e m ih =>
    obtain ⟨k, v⟩ := e
    simp only [Memory.wfFrom, Bool.and_eq_true, decide_eq_true_eq, bne_iff_ne] at h
    cases m' with
    | nil =>
      have := heq k
      simp only [Memory.read, if_true] at this
      exact absurd this h.1.2
    | cons e' m' =>
      obtain ⟨k', v'⟩ := e'
      simp only [Memory.wfFrom, Bool.and_eq_true, decide_eq_true_eq, bne_iff_ne] at h'
      have hk : k = k' := by
        rcases Nat.lt_trichotomy k k' with hlt | heq' | hgt
        · have h1 := heq k
          simp only [Memory.read, if_true, if_neg (show k' ≠ k by omega)] at h1
          rw [Memory.read_below size (k' + 1) m' h'.2 k (by omega)] at h1
          exact absurd h1 h.1.2
        · exact heq'
        · have h1 := heq k'
          simp only [Memory.read, if_true, if_neg (show k ≠ k' by omega)] at h1
          rw [Memory.read_below size (k + 1) m h.2 k' (by omega)] at h1
          exact absurd h1.symm h'.1.2
      subst hk
      have hv : v = v' := by simpa [Memory.read] using heq k
      subst hv
      have : m = m' := by
        apply ih (k + 1) m' h.2 h'.2
        intro a
        by_cases ha : k = a
        · subst ha
          rw [Memory.read_below size (k + 1) m h.2 k (by omega), Memory.read_below size (k + 1) m' h'.2 k (by omega)]
        · have := heq a
          simpa [Memory.read, ha] using this
      rw [this]

theorem Memory.ext_wf (size : Nat) (m m' : Memory) (h : Memory.wf size m = true) (h' : Memory.wf size m' = true)
    (heq : ∀ a, Memory.read m a = Memory.read m' a) : m = m' := Memory.ext_wfFrom size 0 m m' h h' heq

end Sys2Proof.Machine
end

