-- ==== Sys2Proof/Laws/State.lean ====
section
/-! SUPPORT. One lemma per field per update of State, so that no proof unfolds a record update. -/

namespace Sys2Proof.Machine

@[simp] theorem State.setPc_pc (s : State) (v : Word) : (s.setPc v).pc = v := rfl
@[simp] theorem State.setPc_a (s : State) (v : Word) : (s.setPc v).a = s.a := rfl
@[simp] theorem State.setPc_x (s : State) (v : Word) : (s.setPc v).x = s.x := rfl
@[simp] theorem State.setPc_y (s : State) (v : Word) : (s.setPc v).y = s.y := rfl
@[simp] theorem State.setPc_sp (s : State) (v : Word) : (s.setPc v).sp = s.sp := rfl
@[simp] theorem State.setPc_p (s : State) (v : Word) : (s.setPc v).p = s.p := rfl
@[simp] theorem State.setPc_execState (s : State) (v : Word) : (s.setPc v).execState = s.execState := rfl
@[simp] theorem State.setPc_fault (s : State) (v : Word) : (s.setPc v).fault = s.fault := rfl
@[simp] theorem State.setPc_refusal (s : State) (v : Word) : (s.setPc v).refusal = s.refusal := rfl
@[simp] theorem State.setPc_booted (s : State) (v : Word) : (s.setPc v).booted = s.booted := rfl
@[simp] theorem State.setPc_mem (s : State) (v : Word) : (s.setPc v).mem = s.mem := rfl
@[simp] theorem State.setPc_trace (s : State) (v : Word) : (s.setPc v).trace = s.trace := rfl
@[simp] theorem State.setPc_cfg (s : State) (v : Word) : (s.setPc v).cfg = s.cfg := rfl
@[simp] theorem State.setPc_cycles (s : State) (v : Word) : (s.setPc v).cycles = s.cycles := rfl
@[simp] theorem State.setPc_bus (s : State) (v : Word) : (s.setPc v).bus = s.bus := rfl
@[simp] theorem State.setPc_osCalls (s : State) (v : Word) : (s.setPc v).osCalls = s.osCalls := rfl

@[simp] theorem State.setA_pc (s : State) (v : Byte) : (s.setA v).pc = s.pc := rfl
@[simp] theorem State.setA_a (s : State) (v : Byte) : (s.setA v).a = v := rfl
@[simp] theorem State.setA_x (s : State) (v : Byte) : (s.setA v).x = s.x := rfl
@[simp] theorem State.setA_y (s : State) (v : Byte) : (s.setA v).y = s.y := rfl
@[simp] theorem State.setA_sp (s : State) (v : Byte) : (s.setA v).sp = s.sp := rfl
@[simp] theorem State.setA_p (s : State) (v : Byte) : (s.setA v).p = s.p := rfl
@[simp] theorem State.setA_execState (s : State) (v : Byte) : (s.setA v).execState = s.execState := rfl
@[simp] theorem State.setA_fault (s : State) (v : Byte) : (s.setA v).fault = s.fault := rfl
@[simp] theorem State.setA_refusal (s : State) (v : Byte) : (s.setA v).refusal = s.refusal := rfl
@[simp] theorem State.setA_booted (s : State) (v : Byte) : (s.setA v).booted = s.booted := rfl
@[simp] theorem State.setA_mem (s : State) (v : Byte) : (s.setA v).mem = s.mem := rfl
@[simp] theorem State.setA_trace (s : State) (v : Byte) : (s.setA v).trace = s.trace := rfl
@[simp] theorem State.setA_cfg (s : State) (v : Byte) : (s.setA v).cfg = s.cfg := rfl
@[simp] theorem State.setA_cycles (s : State) (v : Byte) : (s.setA v).cycles = s.cycles := rfl
@[simp] theorem State.setA_bus (s : State) (v : Byte) : (s.setA v).bus = s.bus := rfl
@[simp] theorem State.setA_osCalls (s : State) (v : Byte) : (s.setA v).osCalls = s.osCalls := rfl

@[simp] theorem State.setX_pc (s : State) (v : Byte) : (s.setX v).pc = s.pc := rfl
@[simp] theorem State.setX_a (s : State) (v : Byte) : (s.setX v).a = s.a := rfl
@[simp] theorem State.setX_x (s : State) (v : Byte) : (s.setX v).x = v := rfl
@[simp] theorem State.setX_y (s : State) (v : Byte) : (s.setX v).y = s.y := rfl
@[simp] theorem State.setX_sp (s : State) (v : Byte) : (s.setX v).sp = s.sp := rfl
@[simp] theorem State.setX_p (s : State) (v : Byte) : (s.setX v).p = s.p := rfl
@[simp] theorem State.setX_execState (s : State) (v : Byte) : (s.setX v).execState = s.execState := rfl
@[simp] theorem State.setX_fault (s : State) (v : Byte) : (s.setX v).fault = s.fault := rfl
@[simp] theorem State.setX_refusal (s : State) (v : Byte) : (s.setX v).refusal = s.refusal := rfl
@[simp] theorem State.setX_booted (s : State) (v : Byte) : (s.setX v).booted = s.booted := rfl
@[simp] theorem State.setX_mem (s : State) (v : Byte) : (s.setX v).mem = s.mem := rfl
@[simp] theorem State.setX_trace (s : State) (v : Byte) : (s.setX v).trace = s.trace := rfl
@[simp] theorem State.setX_cfg (s : State) (v : Byte) : (s.setX v).cfg = s.cfg := rfl
@[simp] theorem State.setX_cycles (s : State) (v : Byte) : (s.setX v).cycles = s.cycles := rfl
@[simp] theorem State.setX_bus (s : State) (v : Byte) : (s.setX v).bus = s.bus := rfl
@[simp] theorem State.setX_osCalls (s : State) (v : Byte) : (s.setX v).osCalls = s.osCalls := rfl

@[simp] theorem State.setY_pc (s : State) (v : Byte) : (s.setY v).pc = s.pc := rfl
@[simp] theorem State.setY_a (s : State) (v : Byte) : (s.setY v).a = s.a := rfl
@[simp] theorem State.setY_x (s : State) (v : Byte) : (s.setY v).x = s.x := rfl
@[simp] theorem State.setY_y (s : State) (v : Byte) : (s.setY v).y = v := rfl
@[simp] theorem State.setY_sp (s : State) (v : Byte) : (s.setY v).sp = s.sp := rfl
@[simp] theorem State.setY_p (s : State) (v : Byte) : (s.setY v).p = s.p := rfl
@[simp] theorem State.setY_execState (s : State) (v : Byte) : (s.setY v).execState = s.execState := rfl
@[simp] theorem State.setY_fault (s : State) (v : Byte) : (s.setY v).fault = s.fault := rfl
@[simp] theorem State.setY_refusal (s : State) (v : Byte) : (s.setY v).refusal = s.refusal := rfl
@[simp] theorem State.setY_booted (s : State) (v : Byte) : (s.setY v).booted = s.booted := rfl
@[simp] theorem State.setY_mem (s : State) (v : Byte) : (s.setY v).mem = s.mem := rfl
@[simp] theorem State.setY_trace (s : State) (v : Byte) : (s.setY v).trace = s.trace := rfl
@[simp] theorem State.setY_cfg (s : State) (v : Byte) : (s.setY v).cfg = s.cfg := rfl
@[simp] theorem State.setY_cycles (s : State) (v : Byte) : (s.setY v).cycles = s.cycles := rfl
@[simp] theorem State.setY_bus (s : State) (v : Byte) : (s.setY v).bus = s.bus := rfl
@[simp] theorem State.setY_osCalls (s : State) (v : Byte) : (s.setY v).osCalls = s.osCalls := rfl

@[simp] theorem State.setSp_pc (s : State) (v : Byte) : (s.setSp v).pc = s.pc := rfl
@[simp] theorem State.setSp_a (s : State) (v : Byte) : (s.setSp v).a = s.a := rfl
@[simp] theorem State.setSp_x (s : State) (v : Byte) : (s.setSp v).x = s.x := rfl
@[simp] theorem State.setSp_y (s : State) (v : Byte) : (s.setSp v).y = s.y := rfl
@[simp] theorem State.setSp_sp (s : State) (v : Byte) : (s.setSp v).sp = v := rfl
@[simp] theorem State.setSp_p (s : State) (v : Byte) : (s.setSp v).p = s.p := rfl
@[simp] theorem State.setSp_execState (s : State) (v : Byte) : (s.setSp v).execState = s.execState := rfl
@[simp] theorem State.setSp_fault (s : State) (v : Byte) : (s.setSp v).fault = s.fault := rfl
@[simp] theorem State.setSp_refusal (s : State) (v : Byte) : (s.setSp v).refusal = s.refusal := rfl
@[simp] theorem State.setSp_booted (s : State) (v : Byte) : (s.setSp v).booted = s.booted := rfl
@[simp] theorem State.setSp_mem (s : State) (v : Byte) : (s.setSp v).mem = s.mem := rfl
@[simp] theorem State.setSp_trace (s : State) (v : Byte) : (s.setSp v).trace = s.trace := rfl
@[simp] theorem State.setSp_cfg (s : State) (v : Byte) : (s.setSp v).cfg = s.cfg := rfl
@[simp] theorem State.setSp_cycles (s : State) (v : Byte) : (s.setSp v).cycles = s.cycles := rfl
@[simp] theorem State.setSp_bus (s : State) (v : Byte) : (s.setSp v).bus = s.bus := rfl
@[simp] theorem State.setSp_osCalls (s : State) (v : Byte) : (s.setSp v).osCalls = s.osCalls := rfl

@[simp] theorem State.setP_pc (s : State) (v : Byte) : (s.setP v).pc = s.pc := rfl
@[simp] theorem State.setP_a (s : State) (v : Byte) : (s.setP v).a = s.a := rfl
@[simp] theorem State.setP_x (s : State) (v : Byte) : (s.setP v).x = s.x := rfl
@[simp] theorem State.setP_y (s : State) (v : Byte) : (s.setP v).y = s.y := rfl
@[simp] theorem State.setP_sp (s : State) (v : Byte) : (s.setP v).sp = s.sp := rfl
@[simp] theorem State.setP_p (s : State) (v : Byte) : (s.setP v).p = forceU v := rfl
@[simp] theorem State.setP_execState (s : State) (v : Byte) : (s.setP v).execState = s.execState := rfl
@[simp] theorem State.setP_fault (s : State) (v : Byte) : (s.setP v).fault = s.fault := rfl
@[simp] theorem State.setP_refusal (s : State) (v : Byte) : (s.setP v).refusal = s.refusal := rfl
@[simp] theorem State.setP_booted (s : State) (v : Byte) : (s.setP v).booted = s.booted := rfl
@[simp] theorem State.setP_mem (s : State) (v : Byte) : (s.setP v).mem = s.mem := rfl
@[simp] theorem State.setP_trace (s : State) (v : Byte) : (s.setP v).trace = s.trace := rfl
@[simp] theorem State.setP_cfg (s : State) (v : Byte) : (s.setP v).cfg = s.cfg := rfl
@[simp] theorem State.setP_cycles (s : State) (v : Byte) : (s.setP v).cycles = s.cycles := rfl
@[simp] theorem State.setP_bus (s : State) (v : Byte) : (s.setP v).bus = s.bus := rfl
@[simp] theorem State.setP_osCalls (s : State) (v : Byte) : (s.setP v).osCalls = s.osCalls := rfl

@[simp] theorem State.setExec_pc (s : State) (v : ExecState) : (s.setExec v).pc = s.pc := rfl
@[simp] theorem State.setExec_a (s : State) (v : ExecState) : (s.setExec v).a = s.a := rfl
@[simp] theorem State.setExec_x (s : State) (v : ExecState) : (s.setExec v).x = s.x := rfl
@[simp] theorem State.setExec_y (s : State) (v : ExecState) : (s.setExec v).y = s.y := rfl
@[simp] theorem State.setExec_sp (s : State) (v : ExecState) : (s.setExec v).sp = s.sp := rfl
@[simp] theorem State.setExec_p (s : State) (v : ExecState) : (s.setExec v).p = s.p := rfl
@[simp] theorem State.setExec_execState (s : State) (v : ExecState) : (s.setExec v).execState = v := rfl
@[simp] theorem State.setExec_fault (s : State) (v : ExecState) : (s.setExec v).fault = s.fault := rfl
@[simp] theorem State.setExec_refusal (s : State) (v : ExecState) : (s.setExec v).refusal = s.refusal := rfl
@[simp] theorem State.setExec_booted (s : State) (v : ExecState) : (s.setExec v).booted = s.booted := rfl
@[simp] theorem State.setExec_mem (s : State) (v : ExecState) : (s.setExec v).mem = s.mem := rfl
@[simp] theorem State.setExec_trace (s : State) (v : ExecState) : (s.setExec v).trace = s.trace := rfl
@[simp] theorem State.setExec_cfg (s : State) (v : ExecState) : (s.setExec v).cfg = s.cfg := rfl
@[simp] theorem State.setExec_cycles (s : State) (v : ExecState) : (s.setExec v).cycles = s.cycles := rfl
@[simp] theorem State.setExec_bus (s : State) (v : ExecState) : (s.setExec v).bus = s.bus := rfl
@[simp] theorem State.setExec_osCalls (s : State) (v : ExecState) : (s.setExec v).osCalls = s.osCalls := rfl

@[simp] theorem State.setTrace_pc (s : State) (v : List TraceEntry) : (s.setTrace v).pc = s.pc := rfl
@[simp] theorem State.setTrace_a (s : State) (v : List TraceEntry) : (s.setTrace v).a = s.a := rfl
@[simp] theorem State.setTrace_x (s : State) (v : List TraceEntry) : (s.setTrace v).x = s.x := rfl
@[simp] theorem State.setTrace_y (s : State) (v : List TraceEntry) : (s.setTrace v).y = s.y := rfl
@[simp] theorem State.setTrace_sp (s : State) (v : List TraceEntry) : (s.setTrace v).sp = s.sp := rfl
@[simp] theorem State.setTrace_p (s : State) (v : List TraceEntry) : (s.setTrace v).p = s.p := rfl
@[simp] theorem State.setTrace_execState (s : State) (v : List TraceEntry) : (s.setTrace v).execState = s.execState := rfl
@[simp] theorem State.setTrace_fault (s : State) (v : List TraceEntry) : (s.setTrace v).fault = s.fault := rfl
@[simp] theorem State.setTrace_refusal (s : State) (v : List TraceEntry) : (s.setTrace v).refusal = s.refusal := rfl
@[simp] theorem State.setTrace_booted (s : State) (v : List TraceEntry) : (s.setTrace v).booted = s.booted := rfl
@[simp] theorem State.setTrace_mem (s : State) (v : List TraceEntry) : (s.setTrace v).mem = s.mem := rfl
@[simp] theorem State.setTrace_trace (s : State) (v : List TraceEntry) : (s.setTrace v).trace = v := rfl
@[simp] theorem State.setTrace_cfg (s : State) (v : List TraceEntry) : (s.setTrace v).cfg = s.cfg := rfl
@[simp] theorem State.setTrace_cycles (s : State) (v : List TraceEntry) : (s.setTrace v).cycles = s.cycles := rfl
@[simp] theorem State.setTrace_bus (s : State) (v : List TraceEntry) : (s.setTrace v).bus = s.bus := rfl
@[simp] theorem State.setTrace_osCalls (s : State) (v : List TraceEntry) : (s.setTrace v).osCalls = s.osCalls := rfl

@[simp] theorem State.setCycles_pc (s : State) (v : Nat) : (s.setCycles v).pc = s.pc := rfl
@[simp] theorem State.setCycles_a (s : State) (v : Nat) : (s.setCycles v).a = s.a := rfl
@[simp] theorem State.setCycles_x (s : State) (v : Nat) : (s.setCycles v).x = s.x := rfl
@[simp] theorem State.setCycles_y (s : State) (v : Nat) : (s.setCycles v).y = s.y := rfl
@[simp] theorem State.setCycles_sp (s : State) (v : Nat) : (s.setCycles v).sp = s.sp := rfl
@[simp] theorem State.setCycles_p (s : State) (v : Nat) : (s.setCycles v).p = s.p := rfl
@[simp] theorem State.setCycles_execState (s : State) (v : Nat) : (s.setCycles v).execState = s.execState := rfl
@[simp] theorem State.setCycles_fault (s : State) (v : Nat) : (s.setCycles v).fault = s.fault := rfl
@[simp] theorem State.setCycles_refusal (s : State) (v : Nat) : (s.setCycles v).refusal = s.refusal := rfl
@[simp] theorem State.setCycles_booted (s : State) (v : Nat) : (s.setCycles v).booted = s.booted := rfl
@[simp] theorem State.setCycles_mem (s : State) (v : Nat) : (s.setCycles v).mem = s.mem := rfl
@[simp] theorem State.setCycles_trace (s : State) (v : Nat) : (s.setCycles v).trace = s.trace := rfl
@[simp] theorem State.setCycles_cfg (s : State) (v : Nat) : (s.setCycles v).cfg = s.cfg := rfl
@[simp] theorem State.setCycles_cycles (s : State) (v : Nat) : (s.setCycles v).cycles = v := rfl
@[simp] theorem State.setCycles_bus (s : State) (v : Nat) : (s.setCycles v).bus = s.bus := rfl
@[simp] theorem State.setCycles_osCalls (s : State) (v : Nat) : (s.setCycles v).osCalls = s.osCalls := rfl

@[simp] theorem State.emit_pc (s : State) (v : BusEvent) : (s.emit v).pc = s.pc := rfl
@[simp] theorem State.emit_a (s : State) (v : BusEvent) : (s.emit v).a = s.a := rfl
@[simp] theorem State.emit_x (s : State) (v : BusEvent) : (s.emit v).x = s.x := rfl
@[simp] theorem State.emit_y (s : State) (v : BusEvent) : (s.emit v).y = s.y := rfl
@[simp] theorem State.emit_sp (s : State) (v : BusEvent) : (s.emit v).sp = s.sp := rfl
@[simp] theorem State.emit_p (s : State) (v : BusEvent) : (s.emit v).p = s.p := rfl
@[simp] theorem State.emit_execState (s : State) (v : BusEvent) : (s.emit v).execState = s.execState := rfl
@[simp] theorem State.emit_fault (s : State) (v : BusEvent) : (s.emit v).fault = s.fault := rfl
@[simp] theorem State.emit_refusal (s : State) (v : BusEvent) : (s.emit v).refusal = s.refusal := rfl
@[simp] theorem State.emit_booted (s : State) (v : BusEvent) : (s.emit v).booted = s.booted := rfl
@[simp] theorem State.emit_mem (s : State) (v : BusEvent) : (s.emit v).mem = v.apply s.mem := rfl
@[simp] theorem State.emit_trace (s : State) (v : BusEvent) : (s.emit v).trace = s.trace := rfl
@[simp] theorem State.emit_cfg (s : State) (v : BusEvent) : (s.emit v).cfg = s.cfg := rfl
@[simp] theorem State.emit_cycles (s : State) (v : BusEvent) : (s.emit v).cycles = s.cycles := rfl
@[simp] theorem State.emit_bus (s : State) (v : BusEvent) : (s.emit v).bus = s.bus ++ [v] := rfl
@[simp] theorem State.emit_osCalls (s : State) (v : BusEvent) : (s.emit v).osCalls = s.osCalls := rfl

@[simp] theorem State.afterBus_pc (s : State) (v : List BusEvent) : (s.afterBus v).pc = s.pc := rfl
@[simp] theorem State.afterBus_a (s : State) (v : List BusEvent) : (s.afterBus v).a = s.a := rfl
@[simp] theorem State.afterBus_x (s : State) (v : List BusEvent) : (s.afterBus v).x = s.x := rfl
@[simp] theorem State.afterBus_y (s : State) (v : List BusEvent) : (s.afterBus v).y = s.y := rfl
@[simp] theorem State.afterBus_sp (s : State) (v : List BusEvent) : (s.afterBus v).sp = s.sp := rfl
@[simp] theorem State.afterBus_p (s : State) (v : List BusEvent) : (s.afterBus v).p = s.p := rfl
@[simp] theorem State.afterBus_execState (s : State) (v : List BusEvent) : (s.afterBus v).execState = s.execState := rfl
@[simp] theorem State.afterBus_fault (s : State) (v : List BusEvent) : (s.afterBus v).fault = s.fault := rfl
@[simp] theorem State.afterBus_refusal (s : State) (v : List BusEvent) : (s.afterBus v).refusal = s.refusal := rfl
@[simp] theorem State.afterBus_booted (s : State) (v : List BusEvent) : (s.afterBus v).booted = s.booted := rfl
@[simp] theorem State.afterBus_mem (s : State) (v : List BusEvent) : (s.afterBus v).mem = replay v s.mem := rfl
@[simp] theorem State.afterBus_trace (s : State) (v : List BusEvent) : (s.afterBus v).trace = s.trace := rfl
@[simp] theorem State.afterBus_cfg (s : State) (v : List BusEvent) : (s.afterBus v).cfg = s.cfg := rfl
@[simp] theorem State.afterBus_cycles (s : State) (v : List BusEvent) : (s.afterBus v).cycles = s.cycles := rfl
@[simp] theorem State.afterBus_bus (s : State) (v : List BusEvent) : (s.afterBus v).bus = s.bus ++ v := rfl
@[simp] theorem State.afterBus_osCalls (s : State) (v : List BusEvent) : (s.afterBus v).osCalls = s.osCalls := rfl

@[simp] theorem State.clearOutputs_pc (s : State) : s.clearOutputs.pc = s.pc := rfl
@[simp] theorem State.clearOutputs_a (s : State) : s.clearOutputs.a = s.a := rfl
@[simp] theorem State.clearOutputs_x (s : State) : s.clearOutputs.x = s.x := rfl
@[simp] theorem State.clearOutputs_y (s : State) : s.clearOutputs.y = s.y := rfl
@[simp] theorem State.clearOutputs_sp (s : State) : s.clearOutputs.sp = s.sp := rfl
@[simp] theorem State.clearOutputs_p (s : State) : s.clearOutputs.p = s.p := rfl
@[simp] theorem State.clearOutputs_execState (s : State) : s.clearOutputs.execState = s.execState := rfl
@[simp] theorem State.clearOutputs_fault (s : State) : s.clearOutputs.fault = s.fault := rfl
@[simp] theorem State.clearOutputs_refusal (s : State) : s.clearOutputs.refusal = s.refusal := rfl
@[simp] theorem State.clearOutputs_booted (s : State) : s.clearOutputs.booted = s.booted := rfl
@[simp] theorem State.clearOutputs_mem (s : State) : s.clearOutputs.mem = s.mem := rfl
@[simp] theorem State.clearOutputs_trace (s : State) : s.clearOutputs.trace = s.trace := rfl
@[simp] theorem State.clearOutputs_cfg (s : State) : s.clearOutputs.cfg = s.cfg := rfl
@[simp] theorem State.clearOutputs_cycles (s : State) : s.clearOutputs.cycles = 0 := rfl
@[simp] theorem State.clearOutputs_bus (s : State) : s.clearOutputs.bus = [] := rfl
@[simp] theorem State.clearOutputs_osCalls (s : State) : s.clearOutputs.osCalls = s.osCalls := rfl

@[simp] theorem State.setNZ_pc (s : State) (v : Byte) : (s.setNZ v).pc = s.pc := rfl
@[simp] theorem State.setNZ_a (s : State) (v : Byte) : (s.setNZ v).a = s.a := rfl
@[simp] theorem State.setNZ_x (s : State) (v : Byte) : (s.setNZ v).x = s.x := rfl
@[simp] theorem State.setNZ_y (s : State) (v : Byte) : (s.setNZ v).y = s.y := rfl
@[simp] theorem State.setNZ_sp (s : State) (v : Byte) : (s.setNZ v).sp = s.sp := rfl
@[simp] theorem State.setNZ_p (s : State) (v : Byte) : (s.setNZ v).p = forceU (Machine.setNZ v s.p) := rfl
@[simp] theorem State.setNZ_execState (s : State) (v : Byte) : (s.setNZ v).execState = s.execState := rfl
@[simp] theorem State.setNZ_fault (s : State) (v : Byte) : (s.setNZ v).fault = s.fault := rfl
@[simp] theorem State.setNZ_refusal (s : State) (v : Byte) : (s.setNZ v).refusal = s.refusal := rfl
@[simp] theorem State.setNZ_booted (s : State) (v : Byte) : (s.setNZ v).booted = s.booted := rfl
@[simp] theorem State.setNZ_mem (s : State) (v : Byte) : (s.setNZ v).mem = s.mem := rfl
@[simp] theorem State.setNZ_trace (s : State) (v : Byte) : (s.setNZ v).trace = s.trace := rfl
@[simp] theorem State.setNZ_cfg (s : State) (v : Byte) : (s.setNZ v).cfg = s.cfg := rfl
@[simp] theorem State.setNZ_cycles (s : State) (v : Byte) : (s.setNZ v).cycles = s.cycles := rfl
@[simp] theorem State.setNZ_bus (s : State) (v : Byte) : (s.setNZ v).bus = s.bus := rfl
@[simp] theorem State.setNZ_osCalls (s : State) (v : Byte) : (s.setNZ v).osCalls = s.osCalls := rfl

end Sys2Proof.Machine
end

