-- ==== Sys2Proof/Laws/Bus.lean ====
section
/-! SUPPORT. One lemma per shared bus operation: what a read, a write, a fetch, a 16-bit read, a push and a pull do, in terms
of `State.afterBus`; and what a replay of bus events leaves alone. -/

namespace Sys2Proof.Machine

@[simp] theorem replay_nil (m : Banked) : replay [] m = m := rfl

@[simp] theorem replay_cons (e : BusEvent) (es : List BusEvent) (m : Banked) :
    replay (e :: es) m = replay es (e.apply m) := rfl

theorem replay_append (es fs : List BusEvent) (m : Banked) : replay (es ++ fs) m = replay fs (replay es m) := by
  induction es generalizing m with
  | nil => rfl
  | cons e es ih => exact ih _

@[simp] theorem State.afterBus_nil (s : State) : s.afterBus [] = s := by simp [State.afterBus]

theorem State.afterBus_append (s : State) (es fs : List BusEvent) :
    (s.afterBus es).afterBus fs = s.afterBus (es ++ fs) := by
  simp [State.afterBus, replay_append]

theorem State.emit_eq_afterBus (s : State) (e : BusEvent) : s.emit e = s.afterBus [e] := rfl

theorem memRead_eq (a : Word) (s : State) : memRead a s = (s.mem.readMap a, s.afterBus [readEv s.mem a]) := rfl

theorem memWrite_eq (a : Word) (v : Byte) (s : State) : memWrite a v s = s.afterBus [.write a v] := rfl

/-! ## Reads change no store, and outside the switch page nothing at all -/

@[simp] theorem apply_read_ram (a : Word) (v : Byte) (m : Banked) : ((BusEvent.read a v).apply m).ram = m.ram := rfl

@[simp] theorem apply_read_lc2 (a : Word) (v : Byte) (m : Banked) : ((BusEvent.read a v).apply m).lc2 = m.lc2 := rfl

@[simp] theorem apply_read_rom (a : Word) (v : Byte) (m : Banked) : ((BusEvent.read a v).apply m).rom = m.rom := rfl

theorem apply_read_lc (a : Word) (v : Byte) (m : Banked) : ((BusEvent.read a v).apply m).lc = m.lc.access a true := rfl

theorem apply_write_lc (a : Word) (v : Byte) (m : Banked) : ((BusEvent.write a v).apply m).lc = m.lc.access a false := by
  simp only [BusEvent.apply, Banked.applySoftSwitch, Banked.writeMap, Banked.writeTo]
  split <;> rfl

theorem apply_write_stores (a : Word) (v : Byte) (m : Banked) :
    ((BusEvent.write a v).apply m).ram = (m.writeMap a v).ram ∧ ((BusEvent.write a v).apply m).lc2 = (m.writeMap a v).lc2 ∧
      ((BusEvent.write a v).apply m).rom = (m.writeMap a v).rom := ⟨rfl, rfl, rfl⟩

/-- A read of an address that is no switch changes nothing (20_memory.md R79). -/
theorem apply_read_of_not_switch (a : Word) (v : Byte) (m : Banked) (h : isSwitch a = false) :
    (BusEvent.read a v).apply m = m := by
  simp [BusEvent.apply, Banked.applySoftSwitch, LC.access, h]

/-- A window below 13 reads `ram` whatever the Language Card says (20_memory.md R85). -/
theorem readMap_low (m : Banked) (a : Word) (h : bank a ≤ 12) : m.readMap a = Memory.read m.ram a.toNat := by
  simp [Banked.readMap, LC.readBind, h, Banked.readFrom]

/-- The byte at an address is the same before and after reads, unless a switch read came before a byte of windows 13 to 15. -/
theorem readMap_after_read (m : Banked) (a b : Word) (v : Byte) (h : isSwitch a = false ∨ bank b ≤ 12) :
    ((BusEvent.read a v).apply m).readMap b = m.readMap b := by
  rcases h with h | h
  · rw [apply_read_of_not_switch a v m h]
  · rw [readMap_low _ _ h, readMap_low _ _ h, apply_read_ram]

/-- The byte after a write is the byte written, at an address below window 13. -/
theorem writeMap_low (m : Banked) (a : Word) (v : Byte) (h : bank a ≤ 12) :
    m.writeMap a v = { m with ram := Memory.write m.ram a.toNat v } := by
  simp [Banked.writeMap, LC.writeBind, h, Banked.writeTo]

/-! ## Fetches -/

theorem fetch_eq (s : State) : fetch s = (s.mem.readMap s.pc, (s.afterBus [readEv s.mem s.pc]).setPc (s.pc + 1)) := rfl

/-- An instruction that starts in the switch page ends in window 12: a fetch never changes what the next two read. -/
theorem readMap_after_fetch (m : Banked) (pc : Word) (v : Byte) (k : Nat) (hk : k ≤ 5) :
    ((BusEvent.read pc v).apply m).readMap (pc + BitVec.ofNat 16 k) = m.readMap (pc + BitVec.ofNat 16 k) := by
  apply readMap_after_read
  by_cases h : isSwitch pc = true
  · right
    have := pc.isLt
    simp only [isSwitch, lcSwitchBase, beq_iff_eq] at h
    simp only [bank, BitVec.toNat_add, BitVec.toNat_ofNat]; omega
  · left; simpa using h

/-! ## 16-bit reads, pushes and pulls -/

theorem read16_eq (a : Word) (s : State) : read16 a s =
    (wordAt s.mem a, s.afterBus [readEv s.mem a, readEv s.mem (a + 1)]) := by
  have h : (replay [readEv s.mem a] s.mem).readMap (a + 1) = s.mem.readMap (a + 1) :=
    readMap_after_fetch s.mem a (s.mem.readMap a) 1 (by decide)
  have he : readEv (replay [readEv s.mem a] s.mem) (a + 1) = readEv s.mem (a + 1) := congrArg (BusEvent.read (a + 1)) h
  simp only [read16, memRead_eq, State.afterBus_mem, h, he, State.afterBus_append, wordAt, List.cons_append, List.nil_append]

theorem zpRead16_eq (z : Byte) (s : State) : zpRead16 z s =
    (zpPointer s.mem z, s.afterBus (zpPointerReads s.mem z)) := by
  have h : (replay [readEv s.mem (zext z)] s.mem) = s.mem :=
    apply_read_of_not_switch _ (s.mem.readMap (zext z)) _ (isSwitch_zext z)
  simp only [zpRead16, memRead_eq, State.afterBus_mem, h, State.afterBus_append, List.cons_append, List.nil_append, zpPointer,
    zpPointerReads]

/-- Zero-page reads leave the memory model alone. -/
theorem replay_zpPointerReads (m : Banked) (z : Byte) : replay (zpPointerReads m z) m = m := by
  simp [zpPointerReads, readEv, apply_read_of_not_switch]

theorem push_eq (v : Byte) (s : State) :
    push v s = (s.afterBus [.write (stackAddr s.sp) v]).setSp (s.sp - 1) := rfl

theorem pull_eq (s : State) : pull s =
    (s.mem.readMap (stackAddr (s.sp + 1)),
      (s.afterBus [readEv s.mem (stackAddr (s.sp + 1))]).setSp (s.sp + 1)) := rfl

/-- A stack read leaves the memory model alone. -/
theorem apply_stackRead (m : Banked) (sp v : Byte) : (BusEvent.read (stackAddr sp) v).apply m = m :=
  apply_read_of_not_switch _ _ _ (isSwitch_stackAddr sp)

/-- A stack write writes one byte of `ram`. -/
theorem apply_stackWrite (m : Banked) (sp v : Byte) :
    (BusEvent.write (stackAddr sp) v).apply m = { m with ram := Memory.write m.ram (stackAddr sp).toNat v } := by
  have h : bank (stackAddr sp) ≤ 12 := by simp [bank_stackAddr]
  simp [BusEvent.apply, Banked.applySoftSwitch, writeMap_low _ _ _ h, LC.access]

end Sys2Proof.Machine
end

