-- ==== Sys2Proof/Laws/Operands.lean ====
section
/-! SUPPORT. What each operand operation does, in terms of the addressing rules read from the starting state. -/

namespace Sys2Proof.Machine

theorem zext_eq_join (b : Byte) : zext b = join 0x00 b := by
  apply BitVec.eq_of_toNat_eq
  rw [zext_toNat, join_toNat]
  simp

/-- The pointer reads of every form leave the memory model alone. -/
@[simp] theorem replay_pointerReads (m : Mem) (s : State) : replay (pointerReads m s) s.mem = s.mem := by
  cases m <;> simp [pointerReads, replay_zpPointerReads]

/-- What `resolve` computes (40_addressing.md R164 to R172). -/
theorem resolve_eq (m : Mem) (s : State) :
    resolve m s = (⟨eaOf m s, crosses m s, uncarriedOf m s⟩, s.afterBus (pointerReads m s)) := by
  cases m <;>
    simp [resolve, eaOf, crosses, uncarriedOf, pointerReads, Ea.plain, Ea.indexed, zpRead16_eq, zext_eq_join, carries]

/-- A page-crossing form whose un-carried address is a switch reads its operand in window 12. -/
theorem bank_ea_of_uncarried_switch (m : Mem) (s : State) (hc : crosses m s = true)
    (hs : isSwitch (uncarriedOf m s) = true) : bank (eaOf m s) = 12 := by
  cases m with
  | absx w => exact bank_indexed_of_switch w s.x hc hs
  | absy w => exact bank_indexed_of_switch w s.y hc hs
  | izy nn => exact bank_indexed_of_switch (zpPointer s.mem nn) s.y hc hs
  | zp _ => simp [crosses] at hc
  | zpx _ => simp [crosses] at hc
  | zpy _ => simp [crosses] at hc
  | abs _ => simp [crosses] at hc
  | izx _ => simp [crosses] at hc
  | izp _ => simp [crosses] at hc

/-- The read class on memory: the operand is the byte the read bus shows at EA in the starting state. -/
theorem readMem_eq (m : Mem) (s : State) :
    readMem m s = ⟨s.mem.readMap (eaOf m s), crosses m s, s.afterBus (readAccesses m s)⟩ := by
  simp only [readMem, resolve_eq, memRead_eq]
  cases hc : crosses m s with
  | false =>
    simp [readAccesses, hc, State.afterBus_append]
  | true =>
    have hr : (replay [readEv s.mem (uncarriedOf m s)] s.mem).readMap (eaOf m s) = s.mem.readMap (eaOf m s) := by
      refine readMap_after_read s.mem (uncarriedOf m s) (eaOf m s) (s.mem.readMap (uncarriedOf m s)) ?_
      cases hs : isSwitch (uncarriedOf m s) with
      | false => exact .inl rfl
      | true => right; rw [bank_ea_of_uncarried_switch m s hc hs]
    have he : readEv (replay [readEv s.mem (uncarriedOf m s)] s.mem) (eaOf m s) = readEv s.mem (eaOf m s) :=
      congrArg (BusEvent.read (eaOf m s)) hr
    simp only [State.afterBus_mem, replay_pointerReads, State.afterBus_append, replay_append, if_true, hr, he, readAccesses,
      hc, List.append_assoc]

theorem readSrc_eq (src : Src) (s : State) :
    readSrc src s = ⟨operandOf src s, srcCrosses src s, s.afterBus (srcAccesses src s)⟩ := by
  cases src with
  | imm v => simp [readSrc, operandOf, srcCrosses, srcAccesses]
  | mem m => exact readMem_eq m s

/-- The write class. -/
theorem writeMem_eq (m : Mem) (v : Byte) (s : State) : writeMem m v s = s.afterBus (writeAccesses m v s) := by
  simp [writeMem, resolve_eq, memWrite_eq, State.afterBus_append, writeAccesses]

/-- The read-modify-write pattern with a function of P. -/
theorem rmwMem_eq (f : RmwFn) (m : Mem) (s : State) :
    rmwMem (applyRmw f) m s =
      (s.afterBus (rmwAccesses m (f (s.mem.readMap (eaOf m s)) s.p).1 s)).setP (f (s.mem.readMap (eaOf m s)) s.p).2 := by
  simp only [rmwMem, resolve_eq, memRead_eq, memWrite_eq, applyRmw, State.afterBus_mem, State.afterBus_pc, State.afterBus_p,
    replay_pointerReads, State.afterBus_append, replay_append, rmwAccesses, replay_cons, replay_nil]
  simp only [State.afterBus, State.setP, replay_append, replay_cons, replay_nil, replay_pointerReads, List.append_assoc,
    List.cons_append, List.nil_append]

/-- The read-modify-write pattern that touches no flag (RMBn, SMBn). -/
theorem rmwMem_noflag_eq (g : Byte → Byte) (m : Mem) (s : State) :
    rmwMem (fun v t => (g v, t)) m s = s.afterBus (rmwAccesses m (g (s.mem.readMap (eaOf m s))) s) := by
  simp only [rmwMem, resolve_eq, memRead_eq, memWrite_eq, State.afterBus_mem, State.afterBus_pc,
    replay_pointerReads, State.afterBus_append, replay_append, rmwAccesses, replay_cons, replay_nil]
  simp only [List.append_assoc, List.cons_append, List.nil_append]

theorem rmwDst_acc (f : RmwFn) (s : State) : rmwDst f .acc s = (s.setP (f s.a s.p).2).setA (f s.a s.p).1 := rfl

theorem rmwDst_mem (f : RmwFn) (m : Mem) (s : State) :
    rmwDst f (.mem m) s =
      (s.afterBus (rmwAccesses m (f (s.mem.readMap (eaOf m s)) s.p).1 s)).setP (f (s.mem.readMap (eaOf m s)) s.p).2 :=
  rmwMem_eq f m s

/-- JMP's target, page-crossed flag and pointer reads (40_addressing.md R167, R172, R173, R174). -/
theorem resolveTarget_eq (t : Target) (s : State) : resolveTarget t s =
    match t with
    | .abs w => (⟨w, false⟩, s)
    | .ind w => (⟨wordAt s.mem w, false⟩, s.afterBus [readEv s.mem w, readEv s.mem (w + 1)])
    | .iax w => (⟨wordAt s.mem (w + zext s.x), carries w s.x⟩,
        s.afterBus [readEv s.mem (w + zext s.x), readEv s.mem (w + zext s.x + 1)]) := by
  cases t <;> simp [resolveTarget, read16_eq, Ea.indexed, carries]

end Sys2Proof.Machine
end

