-- ==== Sys2Proof/Laws/Stores.lean ====
section
/-! SUPPORT. What a list of bus accesses does to the four stores: reads change none, a write changes one byte, and every access
keeps the canonical form. -/

namespace Sys2Proof.Machine

/-- Is the access a read? -/
def BusEvent.isRead : BusEvent → Bool
  | .read _ _ => true
  | .write _ _ => false

/-- The addresses written. -/
def writtenBy : List BusEvent → List Word
  | [] => []
  | .read _ _ :: es => writtenBy es
  | .write a _ :: es => a :: writtenBy es

@[simp] theorem writtenBy_nil : writtenBy [] = [] := rfl
@[simp] theorem writtenBy_read (a : Word) (v : Byte) (es : List BusEvent) : writtenBy (.read a v :: es) = writtenBy es := rfl
@[simp] theorem writtenBy_readEv (m : Banked) (a : Word) (es : List BusEvent) : writtenBy (readEv m a :: es) = writtenBy es := rfl
@[simp] theorem writtenBy_write (a : Word) (v : Byte) (es : List BusEvent) :
    writtenBy (.write a v :: es) = a :: writtenBy es := rfl

theorem writtenBy_append (es fs : List BusEvent) : writtenBy (es ++ fs) = writtenBy es ++ writtenBy fs := by
  induction es with
  | nil => rfl
  | cons e es ih => cases e <;> simp [ih]

theorem writtenBy_zpPointerReads (m : Banked) (z : Byte) : writtenBy (zpPointerReads m z) = [] := rfl

@[simp] theorem writtenBy_pointerReads (m : Mem) (s : State) : writtenBy (pointerReads m s) = [] := by
  cases m <;> rfl

@[simp] theorem writtenBy_readAccesses (m : Mem) (s : State) : writtenBy (readAccesses m s) = [] := by
  cases h : crosses m s <;> simp [readAccesses, writtenBy_append, h]

@[simp] theorem writtenBy_srcAccesses (src : Src) (s : State) : writtenBy (srcAccesses src s) = [] := by
  cases src <;> simp [srcAccesses]

@[simp] theorem writtenBy_writeAccesses (m : Mem) (v : Byte) (s : State) : writtenBy (writeAccesses m v s) = [eaOf m s] := by
  simp [writeAccesses, writtenBy_append]

@[simp] theorem writtenBy_rmwAccesses (m : Mem) (v : Byte) (s : State) : writtenBy (rmwAccesses m v s) = [eaOf m s] := by
  simp [rmwAccesses, writtenBy_append]

theorem SameStores.refl (m : Banked) : SameStores m m := ⟨rfl, rfl, rfl⟩

theorem SameStores.trans {m m' m'' : Banked} (h : SameStores m m') (h' : SameStores m' m'') : SameStores m m'' :=
  ⟨h'.1.trans h.1, h'.2.1.trans h.2.1, h'.2.2.trans h.2.2⟩

theorem StoresOnlyAt.of_same {m m' : Banked} (l : List Word) (h : SameStores m m') : StoresOnlyAt l m m' :=
  ⟨fun k _ => by rw [h.1], fun k _ => by rw [h.2.1], h.2.2⟩

theorem StoresOnlyAt.trans {l l' : List Word} {m m' m'' : Banked} (h : StoresOnlyAt l m m') (h' : StoresOnlyAt l' m' m'') :
    StoresOnlyAt (l ++ l') m m'' := by
  refine ⟨fun k hk => ?_, fun k hk => ?_, h'.2.2.trans h.2.2⟩
  · rw [h'.1 k (fun a ha => hk a (by simp [ha])), h.1 k (fun a ha => hk a (by simp [ha]))]
  · rw [h'.2.1 k (fun a ha => hk a (by simp [ha])), h.2.1 k (fun a ha => hk a (by simp [ha]))]

/-- A write access changes at most the byte of `ram` or `lc2` that its address names. -/
theorem storesOnlyAt_apply_write (a : Word) (v : Byte) (m : Banked) :
    StoresOnlyAt [a] m ((BusEvent.write a v).apply m) := by
  obtain ⟨h1, h2, h3⟩ := apply_write_stores a v m
  refine ⟨fun k hk => ?_, fun k hk => ?_, ?_⟩
  · rw [h1]
    simp only [Banked.writeMap, Banked.writeTo]
    split
    · exact Memory.read_write_other _ _ _ _ (hk a (by simp))
    · rfl
    · rfl
  · rw [h2]
    simp only [Banked.writeMap, Banked.writeTo]
    split
    · rfl
    · rename_i hb
      refine Memory.read_write_other _ _ _ _ (fun he => hk a (by simp) ⟨?_, he⟩)
      simp only [LC.writeBind] at hb
      split at hb
      · cases hb
      · split at hb
        · cases hb
        · split at hb
          · rename_i h13; exact h13.1
          · cases hb
    · rfl
  · rw [h3]
    simp only [Banked.writeMap, Banked.writeTo]
    split <;> rfl

/-- A list of accesses changes only the bytes it writes. -/
theorem storesOnlyAt_replay (es : List BusEvent) (m : Banked) : StoresOnlyAt (writtenBy es) m (replay es m) := by
  induction es generalizing m with
  | nil => exact StoresOnlyAt.of_same _ (SameStores.refl m)
  | cons e es ih =>
    cases e with
    | read a v => exact (StoresOnlyAt.of_same [] (m' := (BusEvent.read a v).apply m) ⟨rfl, rfl, rfl⟩).trans (ih _)
    | write a v => exact (storesOnlyAt_apply_write a v m).trans (ih _)

/-- A list with no write changes no store. -/
theorem sameStores_replay (es : List BusEvent) (m : Banked) (h : writtenBy es = []) : SameStores m (replay es m) := by
  induction es generalizing m with
  | nil => exact SameStores.refl m
  | cons e es ih =>
    cases e with
    | read a v => exact SameStores.trans (m' := (BusEvent.read a v).apply m) ⟨rfl, rfl, rfl⟩ (ih _ h)
    | write a v => simp at h

/-- No access changes the ROM image. -/
@[simp] theorem replay_rom (es : List BusEvent) (m : Banked) : (replay es m).rom = m.rom := (storesOnlyAt_replay es m).2.2

/-! ## Canonical form -/

theorem Banked.wf_iff (m : Banked) : m.wf = true ↔
    Memory.wf ramSize m.ram = true ∧ Memory.wf lc2Size m.lc2 = true ∧ ∀ r, m.rom = some r → Memory.wf romSize r = true := by
  unfold Banked.wf
  cases m.rom <;> simp [and_assoc]

/-- Whichever store a window is bound to, a write keeps the canonical form. -/
theorem Banked.wf_writeTo (m : Banked) (st : WriteStore) (a : Word) (v : Byte) (h : m.wf = true) :
    (m.writeTo st a v).wf = true := by
  rw [Banked.wf_iff] at h ⊢
  simp only [Banked.writeTo]
  split
  · exact ⟨Memory.wf_write _ _ _ _ h.1 a.isLt, h.2⟩
  · exact ⟨h.1, Memory.wf_write _ _ _ _ h.2.1 (offset_lt a), h.2.2⟩
  · exact h

theorem Banked.wf_writeMap (m : Banked) (a : Word) (v : Byte) (h : m.wf = true) : (m.writeMap a v).wf = true :=
  Banked.wf_writeTo m _ a v h

theorem Banked.wf_writeByte (v : WriteView) (m : Banked) (a : Word) (b : Byte) (h : m.wf = true) :
    (writeByte v m a b).wf = true :=
  Banked.wf_writeTo m _ a b h

/-- The canonical form does not look at the Language Card. -/
theorem Banked.wf_withLc (m : Banked) (lc : LC) : ({ m with lc := lc } : Banked).wf = m.wf := rfl

theorem Banked.wf_apply (e : BusEvent) (m : Banked) (h : m.wf = true) : (e.apply m).wf = true := by
  cases e with
  | read a v => exact h
  | write a v => exact Banked.wf_writeMap m a v h

/-- Every list of bus accesses keeps the canonical form. -/
theorem Banked.wf_replay (es : List BusEvent) (m : Banked) (h : m.wf = true) : (replay es m).wf = true := by
  induction es generalizing m with
  | nil => exact h
  | cons e es ih => exact ih _ (Banked.wf_apply e m h)

theorem Banked.wf_reset (m : Banked) (h : m.wf = true) : m.reset.wf = true := by
  rw [Banked.wf_iff] at h ⊢
  exact ⟨rfl, rfl, h.2.2⟩

theorem wf_writeRam (l : List (Word × Byte)) (m : Memory) (h : Memory.wf ramSize m = true) :
    Memory.wf ramSize (writeRam l m) = true := by
  induction l generalizing m with
  | nil => exact h
  | cons e l ih => exact ih _ (Memory.wf_write _ _ _ _ h e.1.isLt)

theorem wf_writeLc2 (l : List (BitVec 12 × Byte)) (m : Memory) (h : Memory.wf lc2Size m = true) :
    Memory.wf lc2Size (writeLc2 l m) = true := by
  induction l generalizing m with
  | nil => exact h
  | cons e l ih => exact ih _ (Memory.wf_write _ _ _ _ h e.1.isLt)

/-- What the OS-call context leaves is canonical. -/
theorem Banked.wf_applyTo (r : OsReply) (m : Banked) (h : m.wf = true) : (OsReply.applyTo r m).wf = true := by
  rw [Banked.wf_iff] at h ⊢
  exact ⟨wf_writeRam _ _ h.1, wf_writeLc2 _ _ h.2.1, h.2.2⟩

theorem Banked.wf_placeByte (m : Banked) (a : Word) (v : Byte) (h : m.wf = true) : (m.placeByte a v).wf = true := by
  rw [Banked.wf_iff] at h ⊢
  obtain ⟨h1, h2, h3⟩ := h
  simp only [Banked.placeByte]
  split
  · exact ⟨Memory.wf_write _ _ _ _ h1 a.isLt, h2, h3⟩
  · exact ⟨h1, Memory.wf_write _ _ _ _ h2 (offset_lt a), h3⟩
  · refine ⟨h1, h2, fun r hr => ?_⟩
    simp only [Option.some.injEq] at hr
    subst hr
    apply Memory.wf_write
    · cases hm : m.rom with
      | none => rfl
      | some r => exact h3 r hm
    · have := a.isLt; unfold romBase romSize; omega

/-- Placing an instruction keeps the canonical form. -/
theorem Banked.wf_placeWord (m : Banked) (a : Word) (b0 b1 b2 : Byte) (h : m.wf = true) : (m.placeWord a b0 b1 b2).wf = true :=
  Banked.wf_placeByte _ _ _ (Banked.wf_placeByte _ _ _ (Banked.wf_placeByte _ _ _ h))

/-- A loaded ROM image is canonical. -/
theorem Banked.wf_loadROM (m m' : Banked) (bytes : List Byte) (h : m.wf = true) (hl : m.loadROM bytes = .ok m') :
    m'.wf = true := by
  unfold Banked.loadROM at hl
  split at hl
  · rename_i hlen
    cases hl
    rw [Banked.wf_iff] at h ⊢
    refine ⟨h.1, h.2.1, fun r hr => ?_⟩
    simp only [Option.some.injEq] at hr
    subst hr
    exact Memory.wf_writeAll _ _ _ _ rfl (by omega)
  · cases hl

end Sys2Proof.Machine
end

