-- ==== Sys2Proof/Laws/Meanings.lean ====
section
/-! SUPPORT. One lemma per shared operation of the meanings: all that it does, said in terms of the addressing rules and the bus
accesses of the starting state. Proofs about an instruction cite these and do not unfold the operation. -/

namespace Sys2Proof.Machine

theorem finish_eq (i : Instr) (s : State) : finish i s = .next { s with cycles := baseCycles i } := rfl

/-- The read class. -/
theorem readInstr_eq (i : Instr) (src : Src) (f : Byte → State → State) (s : State) :
    readInstr i src f s =
      .next { f (operandOf src s) (s.afterBus (srcAccesses src s)) with
              cycles := baseCycles i + if srcCrosses src s then 1 else 0 } := by
  rw [readInstr, readSrc_eq]; rfl

/-- ADC and SBC. -/
theorem arithInstr_eq (i : Instr) (src : Src) (alu : Byte → Byte → Byte → Alu) (s : State) :
    arithInstr i src alu s =
      .next { s.afterBus (srcAccesses src s) with
              a := (alu s.p s.a (operandOf src s)).val
              p := forceU (aluP (alu s.p s.a (operandOf src s)) s.p)
              cycles := baseCycles i + (if srcCrosses src s then 1 else 0) + if getF .d s.p then 1 else 0 } := by
  rw [arithInstr, readSrc_eq]; rfl

/-- The write class. -/
theorem finish_writeMem_eq (i : Instr) (m : Mem) (v : Byte) (s : State) :
    finish i (writeMem m v s) = .next { s.afterBus (writeAccesses m v s) with cycles := baseCycles i } := by
  rw [writeMem_eq]; rfl

/-- The accumulator form of the read-modify-write class. -/
theorem rmwDst_acc_eq (f : RmwFn) (s : State) :
    rmwDst f .acc s = { s with a := (f s.a s.p).1, p := forceU (f s.a s.p).2 } := rfl

/-- Its memory form. -/
theorem rmwDst_mem_eq (f : RmwFn) (m : Mem) (s : State) :
    rmwDst f (.mem m) s =
      { s.afterBus (rmwAccesses m (f (s.mem.readMap (eaOf m s)) s.p).1 s) with
        p := forceU (f (s.mem.readMap (eaOf m s)) s.p).2 } := by
  rw [rmwDst_mem]; rfl

theorem transfer_eq (start target : Word) (s : State) :
    transfer start target s =
      { s with pc := target, trace := recordIn s.cfg.traceCap start target s.trace } := rfl

/-- The common branch. -/
theorem branch_taken (i : Instr) (start : Word) (taken : Nat) (rr : Byte) (s : State) :
    branch i start true taken rr s =
      .next { s with
        pc := s.pc + sext rr
        trace := recordIn s.cfg.traceCap start (s.pc + sext rr) s.trace
        cycles := baseCycles i + (taken + if hi (s.pc + sext rr) = hi s.pc then 0 else 1) } := rfl

theorem branch_not_taken (i : Instr) (start : Word) (taken : Nat) (rr : Byte) (s : State) :
    branch i start false taken rr s = .next { s with cycles := baseCycles i } := rfl

/-- The bit branches: the zero-page read, then the fetch of the displacement, then the common branch. -/
theorem bitBranch_eq (i : Instr) (n : Nat) (want : Bool) (nn rr : Byte) (s : State) :
    bitBranch i n want nn rr s =
      branch i (startOf i s) ((Memory.read s.mem.ram nn.toNat).getLsbD n == want) 1 rr
        { s.afterBus [readEv s.mem (zext nn), readEv s.mem s.pc] with pc := s.pc + 1 } := by
  have hm : replay [readEv s.mem (zext nn)] s.mem = s.mem := apply_read_of_not_switch _ (s.mem.readMap (zext nn)) _ (isSwitch_zext nn)
  have hr : s.mem.readMap (zext nn) = Memory.read s.mem.ram nn.toNat := by
    rw [readMap_low _ _ (by simp [bank_zext]), zext_toNat]
  simp only [bitBranch, memRead_eq, fetch_eq, State.afterBus_mem, State.afterBus_pc, hm, State.afterBus_append, hr]
  rfl

/-- Two pushes, high byte first. -/
theorem pushWord_eq (w : Word) (s : State) :
    pushWord w s =
      { s.afterBus [.write (stackAddr s.sp) (hi w), .write (stackAddr (s.sp - 1)) (lo w)] with sp := s.sp - 2 } := by
  have h : s.sp - 1 - 1 = s.sp - 2 := by bv_omega
  simp only [pushWord, push_eq, State.afterBus, State.setSp, replay_cons, replay_nil, List.append_assoc, h,
    List.cons_append, List.nil_append]

/-- Two pulls, low byte first: the memory model is unchanged. -/
theorem pullWord_eq (s : State) :
    pullWord s =
      (join (s.mem.readMap (stackAddr (s.sp + 2))) (s.mem.readMap (stackAddr (s.sp + 1))),
       { s with sp := s.sp + 2
                bus := s.bus ++ [readEv s.mem (stackAddr (s.sp + 1)), readEv s.mem (stackAddr (s.sp + 2))] }) := by
  have h : s.sp + 1 + 1 = s.sp + 2 := by bv_omega
  simp only [pullWord, pull_eq, State.afterBus, State.setSp, replay_cons, replay_nil,
    readEv, apply_stackRead, List.append_assoc, h, List.cons_append, List.nil_append]

/-- One pull, as a state. -/
theorem pull_state_eq (s : State) :
    pull s = (s.mem.readMap (stackAddr (s.sp + 1)),
      { s with sp := s.sp + 1, bus := s.bus ++ [readEv s.mem (stackAddr (s.sp + 1))] }) := by
  simp only [pull_eq, State.afterBus, State.setSp, replay_cons, replay_nil, readEv, apply_stackRead]

/-- A byte outside page 1 reads the same after a stack write. -/
theorem readMap_after_stackWrite (m : Banked) (sp v : Byte) (a : Word) (h : a.toNat < 256 ∨ 512 ≤ a.toNat) :
    ((BusEvent.write (stackAddr sp) v).apply m).readMap a = m.readMap a := by
  rw [apply_stackWrite]
  simp only [Banked.readMap, Banked.readFrom]
  split
  · refine Memory.read_write_other _ _ _ _ ?_
    have := sp.isLt
    rw [stackAddr_toNat]; omega
  · rfl
  · rfl

/-- Taking the software trap. -/
theorem enterTrap_eq (start : Word) (s : State) :
    enterTrap start s =
      { s.afterBus [.write (stackAddr s.sp) (hi (start + 2)), .write (stackAddr (s.sp - 1)) (lo (start + 2)),
          .write (stackAddr (s.sp - 2)) (pushedP s.p), readEv s.mem brkVector, readEv s.mem (brkVector + 1)] with
        sp := s.sp - 3
        p := forceU (setF .d false (setF .i true s.p))
        pc := wordAt s.mem brkVector
        trace := recordIn s.cfg.traceCap start (wordAt s.mem brkVector) s.trace } := by
  have h3 : s.sp - 2 - 1 = s.sp - 3 := by bv_omega
  have hv : ∀ a : Word, 512 ≤ a.toNat →
      (replay [.write (stackAddr s.sp) (hi (start + 2)), .write (stackAddr (s.sp - 1)) (lo (start + 2)),
        .write (stackAddr (s.sp - 2)) (pushedP s.p)] s.mem).readMap a = s.mem.readMap a := by
    intro a ha
    simp only [replay_cons, replay_nil, readMap_after_stackWrite _ _ _ _ (Or.inr ha)]
  have h1 := hv brkVector (by decide)
  have h2 := hv (brkVector + 1) (by decide)
  simp only [replay_cons, replay_nil] at h1 h2
  simp only [enterTrap, pushWord_eq, push_eq, read16_eq, transfer_eq, State.afterBus, State.setSp, State.setP, readEv, wordAt,
    replay_cons, replay_nil, h1, h2, h3, List.append_assoc, List.cons_append, List.nil_append]

/-- Returning from it. -/
theorem returnFromTrap_eq (start : Word) (s : State) :
    returnFromTrap start s =
      { s with
        pc := join (s.mem.readMap (stackAddr (s.sp + 3))) (s.mem.readMap (stackAddr (s.sp + 2)))
        sp := s.sp + 3
        p := forceU (pulledP (s.mem.readMap (stackAddr (s.sp + 1))))
        trace := recordIn s.cfg.traceCap start
          (join (s.mem.readMap (stackAddr (s.sp + 3))) (s.mem.readMap (stackAddr (s.sp + 2)))) s.trace
        bus := s.bus ++ [readEv s.mem (stackAddr (s.sp + 1)), readEv s.mem (stackAddr (s.sp + 2)),
          readEv s.mem (stackAddr (s.sp + 3))] } := by
  have h2 : s.sp + 1 + 1 = s.sp + 2 := by bv_omega
  have h3 : s.sp + 1 + 2 = s.sp + 3 := by bv_omega
  simp only [returnFromTrap, pull_state_eq, pullWord_eq, transfer_eq, State.setP, h2, h3, List.append_assoc, List.cons_append,
    List.nil_append]

/-- The inline descriptor of a trapped JSR: three reads in order, each showing what the read bus showed before the first. -/
theorem readDescriptor_eq (start : Word) (s : State) :
    readDescriptor start s =
      (⟨s.mem.readMap (start + 3), join (s.mem.readMap (start + 5)) (s.mem.readMap (start + 4))⟩,
       s.afterBus [readEv s.mem (start + 3), readEv s.mem (start + 4), readEv s.mem (start + 5)]) := by
  have e4 : start + 4 = start + 3 + BitVec.ofNat 16 1 := by bv_omega
  have e5 : start + 5 = start + 3 + BitVec.ofNat 16 2 := by bv_omega
  have e5' : start + 5 = start + 4 + BitVec.ofNat 16 1 := by bv_omega
  have r4 : ((readEv s.mem (start + 3)).apply s.mem).readMap (start + 4) = s.mem.readMap (start + 4) := by
    rw [e4]; exact readMap_after_fetch _ _ _ _ (by decide)
  have r5 : ((readEv s.mem (start + 3)).apply s.mem).readMap (start + 5) = s.mem.readMap (start + 5) := by
    rw [e5]; exact readMap_after_fetch _ _ _ _ (by decide)
  have r5' : ∀ m : Banked, ∀ v : Byte, ((BusEvent.read (start + 4) v).apply m).readMap (start + 5) = m.readMap (start + 5) := by
    intro m v; rw [e5']; exact readMap_after_fetch _ _ _ _ (by decide)
  have g4 : readEv ((readEv s.mem (start + 3)).apply s.mem) (start + 4) = readEv s.mem (start + 4) := congrArg _ r4
  have g5 : readEv ((readEv s.mem (start + 4)).apply ((readEv s.mem (start + 3)).apply s.mem)) (start + 5) =
      readEv s.mem (start + 5) := congrArg _ ((r5' _ _).trans r5)
  have v5 : ((readEv s.mem (start + 4)).apply ((readEv s.mem (start + 3)).apply s.mem)).readMap (start + 5) =
      s.mem.readMap (start + 5) := (r5' _ _).trans r5
  simp only [readDescriptor, memRead_eq, State.afterBus, replay_cons, replay_nil, r4, v5, g4, g5, List.append_assoc,
    List.cons_append, List.nil_append]

/-- The OS-call trap with a context attached, for whatever the context answers. -/
theorem osTrap_eq (i : Instr) (start : Word) (s : State) (h : s.cfg.ctx = true) :
    osTrap i start s =
      let es := [readEv s.mem (start + 3), readEv s.mem (start + 4), readEv s.mem (start + 5)]
      let r := Config.osDispatch s.osCalls (s.mem.readMap (start + 3))
        (join (s.mem.readMap (start + 5)) (s.mem.readMap (start + 4))) (replay es s.mem)
      .next { s with
        a := r.status, p := forceU (setF .c (r.status != 0) s.p), pc := start + 6
        mem := OsReply.applyTo r (replay es s.mem)
        bus := s.bus ++ es
        trace := recordIn s.cfg.traceCap start (start + 6) s.trace
        cycles := baseCycles i, osCalls := s.osCalls + 1 } := by
  simp only [osTrap, readDescriptor_eq, h, if_true]
  rfl

/-- The OS-call trap with none. -/
theorem osTrap_no_ctx (i : Instr) (start : Word) (s : State) (h : s.cfg.ctx = false) :
    osTrap i start s = .fault .noMLIContext := by
  simp [osTrap, h]

/-- An unassigned opcode under `UNDOC_POLICY` = nop. -/
theorem undocumented_nop (i : Instr) (op : Byte) (s : State) (h : s.cfg.undocPolicy = .nop) :
    undocumented i op s = .next { s with cycles := baseCycles i } := by
  simp [undocumented, h, finish_eq]

/-- An unassigned opcode under `UNDOC_POLICY` = refuse. -/
theorem undocumented_refuse (i : Instr) (op : Byte) (s : State) (h : s.cfg.undocPolicy = .refuse) :
    undocumented i op s = .refused (.undocumented op (startOf i s)) := by
  simp [undocumented, h]

end Sys2Proof.Machine
end

