-- ==== Sys2Proof/Laws/Effect.lean ====
section
/-! SUPPORT. Said once: everything that the operations, an instruction and a step can do. `Moves` is what bus accesses and register
writes do; `Effect` adds one trace entry, the execution state and the count. Invariants and whole-machine rules follow from
`exec_effect` and `step_next_cases`, without unfolding a meaning. -/

namespace Sys2Proof.Machine

/-- What a write of P may do to the two bits that are no flags: keep U = 1 and B = 0. -/
def KeepsUB (p q : Byte) : Prop := (getF .u p = true → getF .u q = true) ∧ (getF .b p = false → getF .b q = false)

theorem KeepsUB.refl (p : Byte) : KeepsUB p p := ⟨id, id⟩

theorem KeepsUB.trans {p q r : Byte} (h : KeepsUB p q) (h' : KeepsUB q r) : KeepsUB p r := ⟨h'.1 ∘ h.1, h'.2 ∘ h.2⟩

theorem TrueReads_append (es fs : List BusEvent) (m : Banked) (h : TrueReads es m) (h' : TrueReads fs (replay es m)) :
    TrueReads (es ++ fs) m := by
  induction es generalizing m with
  | nil => exact h'
  | cons e es ih =>
    cases e with
    | read a v => exact ⟨h.1, ih _ h.2 h'⟩
    | write a v => exact ih _ h h'

/-- Bus accesses and writes of PC, A, X, Y, SP and P. -/
structure Moves (s t : State) : Prop where
  bus : ∃ es, t.mem = replay es s.mem ∧ t.bus = s.bus ++ es ∧ TrueReads es s.mem
  p : KeepsUB s.p t.p
  execState : t.execState = s.execState
  fault : t.fault = s.fault
  refusal : t.refusal = s.refusal
  booted : t.booted = s.booted
  trace : t.trace = s.trace
  cfg : t.cfg = s.cfg
  osCalls : t.osCalls = s.osCalls

namespace Moves

theorem refl (s : State) : Moves s s :=
  ⟨⟨[], rfl, by simp, trivial⟩, KeepsUB.refl _, rfl, rfl, rfl, rfl, rfl, rfl, rfl⟩

theorem trans {s t u : State} (h : Moves s t) (h' : Moves t u) : Moves s u := by
  obtain ⟨es, hm, hb, hr⟩ := h.bus
  obtain ⟨fs, hm', hb', hr'⟩ := h'.bus
  refine ⟨⟨es ++ fs, ?_, ?_, ?_⟩, h.p.trans h'.p, h'.execState.trans h.execState, h'.fault.trans h.fault,
    h'.refusal.trans h.refusal, h'.booted.trans h.booted, h'.trace.trans h.trace, h'.cfg.trans h.cfg, h'.osCalls.trans h.osCalls⟩
  · rw [hm', hm, replay_append]
  · rw [hb', hb, List.append_assoc]
  · exact TrueReads_append _ _ _ hr (hm ▸ hr')

theorem setPc (s : State) (v : Word) : Moves s (s.setPc v) :=
  ⟨⟨[], rfl, by simp, trivial⟩, KeepsUB.refl _, rfl, rfl, rfl, rfl, rfl, rfl, rfl⟩

theorem setA (s : State) (v : Byte) : Moves s (s.setA v) :=
  ⟨⟨[], rfl, by simp, trivial⟩, KeepsUB.refl _, rfl, rfl, rfl, rfl, rfl, rfl, rfl⟩

theorem setX (s : State) (v : Byte) : Moves s (s.setX v) :=
  ⟨⟨[], rfl, by simp, trivial⟩, KeepsUB.refl _, rfl, rfl, rfl, rfl, rfl, rfl, rfl⟩

theorem setY (s : State) (v : Byte) : Moves s (s.setY v) :=
  ⟨⟨[], rfl, by simp, trivial⟩, KeepsUB.refl _, rfl, rfl, rfl, rfl, rfl, rfl, rfl⟩

theorem setSp (s : State) (v : Byte) : Moves s (s.setSp v) :=
  ⟨⟨[], rfl, by simp, trivial⟩, KeepsUB.refl _, rfl, rfl, rfl, rfl, rfl, rfl, rfl⟩

/-- A write of P whose value keeps B. -/
theorem setP (s : State) (v : Byte) (h : getF .b s.p = false → getF .b v = false) : Moves s (s.setP v) :=
  ⟨⟨[], rfl, by simp, trivial⟩, ⟨fun _ => getF_u_forceU v, fun hb => (getF_b_forceU v).trans (h hb)⟩, rfl, rfl, rfl, rfl, rfl, rfl, rfl⟩

theorem setNZ (s : State) (v : Byte) : Moves s (s.setNZ v) := setP s _ (fun h => by simp [getF_setNZ, h])

theorem memRead (a : Word) (s : State) : Moves s (memRead a s).2 :=
  ⟨⟨[readEv s.mem a], rfl, rfl, rfl, trivial⟩, KeepsUB.refl _, rfl, rfl, rfl, rfl, rfl, rfl, rfl⟩

theorem memWrite (a : Word) (v : Byte) (s : State) : Moves s (memWrite a v s) :=
  ⟨⟨[.write a v], rfl, rfl, trivial⟩, KeepsUB.refl _, rfl, rfl, rfl, rfl, rfl, rfl, rfl⟩

theorem fetch (s : State) : Moves s (fetch s).2 := (memRead s.pc s).trans (setPc _ _)

theorem fetchBytes (n : Nat) (s : State) : Moves s (fetchBytes n s) := by
  induction n generalizing s with
  | zero => exact refl s
  | succ n ih => exact (fetch s).trans (ih _)

theorem read16 (a : Word) (s : State) : Moves s (read16 a s).2 := (memRead a s).trans (memRead _ _)

theorem zpRead16 (z : Byte) (s : State) : Moves s (zpRead16 z s).2 := (memRead _ s).trans (memRead _ _)

theorem push (v : Byte) (s : State) : Moves s (push v s) := (memWrite _ v s).trans (setSp _ _)

theorem pull (s : State) : Moves s (pull s).2 := (setSp s _).trans (memRead _ _)

theorem pushWord (w : Word) (s : State) : Moves s (pushWord w s) := (push _ s).trans (push _ _)

theorem pullWord (s : State) : Moves s (pullWord s).2 := (pull s).trans (pull _)

theorem resolve (m : Mem) (s : State) : Moves s (resolve m s).2 := by
  cases m with
  | izx nn => exact zpRead16 _ s
  | izy nn => exact zpRead16 _ s
  | izp nn => exact zpRead16 _ s
  | _ => exact refl s

theorem readMem (m : Mem) (s : State) : Moves s (readMem m s).state := by
  simp only [Machine.readMem]
  split
  · exact ((resolve m s).trans (memRead _ _)).trans (memRead _ _)
  · exact (resolve m s).trans (memRead _ _)

theorem readSrc (src : Src) (s : State) : Moves s (readSrc src s).state := by
  cases src with
  | imm v => exact refl s
  | mem m => exact readMem m s

theorem writeMem (m : Mem) (v : Byte) (s : State) : Moves s (writeMem m v s) := (resolve m s).trans (memWrite _ _ _)

/-- The read-modify-write pattern, for a function whose own state change is a move. -/
theorem rmwMem (f : Byte → State → Byte × State) (m : Mem) (s : State) (hf : ∀ v t, Moves t (f v t).2) :
    Moves s (rmwMem f m s) :=
  ((((resolve m s).trans (memRead _ _)).trans (memRead _ _)).trans (hf _ _)).trans (memWrite _ _ _)

theorem rmwDst (f : RmwFn) (dst : Dst) (s : State) (hf : ∀ v p, getF .b p = false → getF .b (f v p).2 = false) :
    Moves s (rmwDst f dst s) := by
  cases dst with
  | acc => exact (setP s _ (hf _ _)).trans (setA _ _)
  | mem m => exact rmwMem _ m s (fun v t => setP t _ (hf v t.p))

theorem resolveTarget (t : Target) (s : State) : Moves s (resolveTarget t s).2 := by
  cases t with
  | abs w => exact refl s
  | ind w => exact read16 _ s
  | iax w => exact read16 _ s

theorem readDescriptor (start : Word) (s : State) : Moves s (readDescriptor start s).2 :=
  ((memRead _ s).trans (memRead _ _)).trans (memRead _ _)

end Moves

/-- What an instruction other than a trapped JSR does: moves, at most one recorded transition, the execution state of WAI or STP,
and the count. -/
structure Effect (i : Instr) (s t : State) : Prop where
  bus : ∃ es, t.mem = replay es s.mem ∧ t.bus = s.bus ++ es ∧ TrueReads es s.mem
  p : KeepsUB s.p t.p
  execState : t.execState = s.execState ∨ (i = .wai ∧ t.execState = .waiting) ∨ (i = .stp ∧ t.execState = .stopped)
  fault : t.fault = s.fault
  refusal : t.refusal = s.refusal
  booted : t.booted = s.booted
  trace : t.trace = s.trace ∨ ∃ src dst, t.trace = recordIn s.cfg.traceCap src dst s.trace
  cfg : t.cfg = s.cfg
  osCalls : t.osCalls = s.osCalls

theorem Moves.effect {i : Instr} {s t : State} (h : Moves s t) (n : Nat) : Effect i s (t.setCycles n) :=
  ⟨h.bus, h.p, .inl h.execState, h.fault, h.refusal, h.booted, .inl h.trace, h.cfg, h.osCalls⟩

theorem Moves.transfer_effect {i : Instr} {s t : State} (h : Moves s t) (start target : Word) (n : Nat) :
    Effect i s ((transfer start target t).setCycles n) := by
  refine ⟨h.bus, h.p, .inl h.execState, h.fault, h.refusal, h.booted, .inr ⟨start, target, ?_⟩, h.cfg, h.osCalls⟩
  show recordIn t.cfg.traceCap start target t.trace = _
  rw [h.cfg, h.trace]

theorem finish_effect {i j : Instr} {s t u : State} (h : Moves s t) (hn : finish j t = .next u) : Effect i s u := by
  cases hn; exact h.effect _

theorem finish_transfer_effect {i j : Instr} {s t u : State} (h : Moves s t) (start target : Word)
    (hn : finish j (transfer start target t) = .next u) : Effect i s u := by
  cases hn; exact h.transfer_effect _ _ _

theorem readInstr_effect {i j : Instr} {src : Src} {f : Byte → State → State} {s u : State} (hf : ∀ v t, Moves t (f v t))
    (hn : readInstr j src f s = .next u) : Effect i s u := by
  cases hn; exact ((Moves.readSrc src s).trans (hf _ _)).effect _

theorem arithInstr_effect {i j : Instr} {src : Src} {alu : Byte → Byte → Byte → Alu} {s u : State}
    (hn : arithInstr j src alu s = .next u) : Effect i s u := by
  cases hn
  exact (((Moves.readSrc src s).trans (Moves.setA _ _)).trans (Moves.setP _ _ (fun h => by
    simpa [getF_aluP] using h))).effect _

theorem shiftInstr_effect {i j : Instr} {f : RmwFn} {dst : Dst} {s u : State}
    (hf : ∀ v p, getF .b p = false → getF .b (f v p).2 = false) (hn : shiftInstr j f dst s = .next u) : Effect i s u := by
  cases hn; exact (Moves.rmwDst f dst s hf).effect _

theorem branch_effect {i j : Instr} {start : Word} {cond : Bool} {taken : Nat} {rr : Byte} {s t u : State} (h : Moves s t)
    (hn : branch j start cond taken rr t = .next u) : Effect i s u := by
  cases cond with
  | true => cases hn; exact h.transfer_effect _ _ _
  | false => exact finish_effect h hn

theorem bitBranch_effect {i j : Instr} {n : Nat} {want : Bool} {nn rr : Byte} {s u : State}
    (hn : bitBranch j n want nn rr s = .next u) : Effect i s u :=
  branch_effect ((Moves.memRead _ s).trans (Moves.fetch _)) hn

theorem undocumented_effect {i j : Instr} {op : Byte} {s u : State} (hn : undocumented j op s = .next u) : Effect i s u := by
  unfold undocumented at hn
  split at hn
  · exact finish_effect (Moves.refl s) hn
  · cases hn

theorem getF_b_setF (g : Flag) (v : Bool) (p : Byte) (hg : g ≠ .b) (h : getF .b p = false) : getF .b (setF g v p) = false := by
  rw [getF_setF_other _ _ _ _ hg.symm, h]

theorem getF_b_setNZ (v p : Byte) (h : getF .b p = false) : getF .b (setNZ v p) = false := by
  simp [getF_setNZ, h]

theorem getF_b_setNZ_setF (v p : Byte) (g : Flag) (c : Bool) (hg : g ≠ .b) (h : getF .b p = false) :
    getF .b (setNZ v (setF g c p)) = false := getF_b_setNZ _ _ (getF_b_setF _ _ _ hg h)

theorem enterTrap_effect {i j : Instr} (start : Word) {s u : State} (hn : finish j (enterTrap start s) = .next u) :
    Effect i s u := by
  refine finish_transfer_effect (t := (read16 brkVector _).2) ?_ _ _ hn
  exact ((((Moves.pushWord _ s).trans (Moves.push _ _)).trans (Moves.setP _ _ (fun h =>
    getF_b_setF _ _ _ (by decide) (getF_b_setF _ _ _ (by decide) h)))).trans (Moves.read16 _ _))

theorem returnFromTrap_effect {i j : Instr} (start : Word) {s u : State} (hn : finish j (returnFromTrap start s) = .next u) :
    Effect i s u :=
  finish_transfer_effect (((Moves.pull s).trans (Moves.setP _ _ (fun _ => by simp [getF_pulledP]))).trans (Moves.pullWord _)) _ _ hn

end Sys2Proof.Machine
end

