-- ==== Sys2Proof/Laws/Exec.lean ====
section
/-! SUPPORT. Said once of every instruction and of every step: what a next state can be, and when there is none. -/

namespace Sys2Proof.Machine

theorem getF_b_bitP (src : Src) (a m p : Byte) (h : getF .b p = false) : getF .b (bitP src a m p) = false := by
  cases src with
  | imm v => exact getF_b_setF _ _ _ (by decide) h
  | mem x => exact getF_b_setF _ _ _ (by decide) (getF_b_setF _ _ _ (by decide) (getF_b_setF _ _ _ (by decide) h))

theorem getF_b_compareP (r m p : Byte) (h : getF .b p = false) : getF .b (compareP r m p) = false := by
  simp [getF_compareP, h]

theorem getF_b_incF (v p : Byte) (h : getF .b p = false) : getF .b (incF v p).2 = false := getF_b_setNZ _ _ h

theorem getF_b_decF (v p : Byte) (h : getF .b p = false) : getF .b (decF v p).2 = false := getF_b_setNZ _ _ h

theorem getF_b_aslF (v p : Byte) (h : getF .b p = false) : getF .b (aslF v p).2 = false :=
  getF_b_setNZ_setF _ _ _ _ (by decide) h

theorem getF_b_lsrF (v p : Byte) (h : getF .b p = false) : getF .b (lsrF v p).2 = false :=
  getF_b_setNZ_setF _ _ _ _ (by decide) h

theorem getF_b_rolF (v p : Byte) (h : getF .b p = false) : getF .b (rolF v p).2 = false :=
  getF_b_setNZ_setF _ _ _ _ (by decide) h

theorem getF_b_rorF (v p : Byte) (h : getF .b p = false) : getF .b (rorF v p).2 = false :=
  getF_b_setNZ_setF _ _ _ _ (by decide) h

/-- Every instruction but a trapped JSR: what its next state can be. -/
theorem exec_effect (i : Instr) (s t : State) (hj : ∀ w, i = .jsr w → s.cfg.mliTrapAddr ≠ some w)
    (h : exec i s = .next t) : Effect i s t := by
  cases i with
  | lda src => exact readInstr_effect (fun _ _ => (Moves.setA _ _).trans (Moves.setNZ _ _)) h
  | ldx src => exact readInstr_effect (fun _ _ => (Moves.setX _ _).trans (Moves.setNZ _ _)) h
  | ldy src => exact readInstr_effect (fun _ _ => (Moves.setY _ _).trans (Moves.setNZ _ _)) h
  | sta m => exact finish_effect (Moves.writeMem _ _ _) h
  | stx m => exact finish_effect (Moves.writeMem _ _ _) h
  | sty m => exact finish_effect (Moves.writeMem _ _ _) h
  | stz m => exact finish_effect (Moves.writeMem _ _ _) h
  | tax => exact finish_effect ((Moves.setX _ _).trans (Moves.setNZ _ _)) h
  | tay => exact finish_effect ((Moves.setY _ _).trans (Moves.setNZ _ _)) h
  | txa => exact finish_effect ((Moves.setA _ _).trans (Moves.setNZ _ _)) h
  | tya => exact finish_effect ((Moves.setA _ _).trans (Moves.setNZ _ _)) h
  | tsx => exact finish_effect ((Moves.setX _ _).trans (Moves.setNZ _ _)) h
  | txs => exact finish_effect (Moves.setSp _ _) h
  | pha => exact finish_effect (Moves.push _ _) h
  | php => exact finish_effect (Moves.push _ _) h
  | phx => exact finish_effect (Moves.push _ _) h
  | phy => exact finish_effect (Moves.push _ _) h
  | pla => exact finish_effect (((Moves.pull s).trans (Moves.setA _ _)).trans (Moves.setNZ _ _)) h
  | plx => exact finish_effect (((Moves.pull s).trans (Moves.setX _ _)).trans (Moves.setNZ _ _)) h
  | ply => exact finish_effect (((Moves.pull s).trans (Moves.setY _ _)).trans (Moves.setNZ _ _)) h
  | plp => exact finish_effect ((Moves.pull s).trans (Moves.setP _ _ (fun _ => by simp [getF_pulledP]))) h
  | adc src => exact arithInstr_effect h
  | sbc src => exact arithInstr_effect h
  | cmp src => exact readInstr_effect (fun _ _ => Moves.setP _ _ (fun hb => getF_b_compareP _ _ _ hb)) h
  | cpx src => exact readInstr_effect (fun _ _ => Moves.setP _ _ (fun hb => getF_b_compareP _ _ _ hb)) h
  | cpy src => exact readInstr_effect (fun _ _ => Moves.setP _ _ (fun hb => getF_b_compareP _ _ _ hb)) h
  | and src => exact readInstr_effect (fun _ _ => (Moves.setA _ _).trans (Moves.setNZ _ _)) h
  | ora src => exact readInstr_effect (fun _ _ => (Moves.setA _ _).trans (Moves.setNZ _ _)) h
  | eor src => exact readInstr_effect (fun _ _ => (Moves.setA _ _).trans (Moves.setNZ _ _)) h
  | bit src => exact readInstr_effect (fun _ _ => Moves.setP _ _ (fun hb => getF_b_bitP _ _ _ _ hb)) h
  | tsb m => exact finish_effect (Moves.rmwMem _ m s (fun _ _ => Moves.setP _ _ (fun hb => getF_b_setF _ _ _ (by decide) hb))) h
  | trb m => exact finish_effect (Moves.rmwMem _ m s (fun _ _ => Moves.setP _ _ (fun hb => getF_b_setF _ _ _ (by decide) hb))) h
  | rmb0 nn => exact finish_effect (Moves.rmwMem _ _ s (fun _ t => Moves.refl t)) h
  | rmb1 nn => exact finish_effect (Moves.rmwMem _ _ s (fun _ t => Moves.refl t)) h
  | rmb2 nn => exact finish_effect (Moves.rmwMem _ _ s (fun _ t => Moves.refl t)) h
  | rmb3 nn => exact finish_effect (Moves.rmwMem _ _ s (fun _ t => Moves.refl t)) h
  | rmb4 nn => exact finish_effect (Moves.rmwMem _ _ s (fun _ t => Moves.refl t)) h
  | rmb5 nn => exact finish_effect (Moves.rmwMem _ _ s (fun _ t => Moves.refl t)) h
  | rmb6 nn => exact finish_effect (Moves.rmwMem _ _ s (fun _ t => Moves.refl t)) h
  | rmb7 nn => exact finish_effect (Moves.rmwMem _ _ s (fun _ t => Moves.refl t)) h
  | smb0 nn => exact finish_effect (Moves.rmwMem _ _ s (fun _ t => Moves.refl t)) h
  | smb1 nn => exact finish_effect (Moves.rmwMem _ _ s (fun _ t => Moves.refl t)) h
  | smb2 nn => exact finish_effect (Moves.rmwMem _ _ s (fun _ t => Moves.refl t)) h
  | smb3 nn => exact finish_effect (Moves.rmwMem _ _ s (fun _ t => Moves.refl t)) h
  | smb4 nn => exact finish_effect (Moves.rmwMem _ _ s (fun _ t => Moves.refl t)) h
  | smb5 nn => exact finish_effect (Moves.rmwMem _ _ s (fun _ t => Moves.refl t)) h
  | smb6 nn => exact finish_effect (Moves.rmwMem _ _ s (fun _ t => Moves.refl t)) h
  | smb7 nn => exact finish_effect (Moves.rmwMem _ _ s (fun _ t => Moves.refl t)) h
  | inc dst => exact finish_effect (Moves.rmwDst incF dst s getF_b_incF) h
  | dec dst => exact finish_effect (Moves.rmwDst decF dst s getF_b_decF) h
  | inx => exact finish_effect ((Moves.setX _ _).trans (Moves.setNZ _ _)) h
  | iny => exact finish_effect ((Moves.setY _ _).trans (Moves.setNZ _ _)) h
  | dex => exact finish_effect ((Moves.setX _ _).trans (Moves.setNZ _ _)) h
  | dey => exact finish_effect ((Moves.setY _ _).trans (Moves.setNZ _ _)) h
  | asl dst => exact shiftInstr_effect (f := aslF) getF_b_aslF h
  | lsr dst => exact shiftInstr_effect (f := lsrF) getF_b_lsrF h
  | rol dst => exact shiftInstr_effect (f := rolF) getF_b_rolF h
  | ror dst => exact shiftInstr_effect (f := rorF) getF_b_rorF h
  | jmp t => exact finish_transfer_effect (Moves.resolveTarget _ s) _ _ h
  | jsr w =>
    have hf : isTrapTarget s.cfg w = false := by simpa [isTrapTarget] using hj w rfl
    simp only [exec, execJsr, hf] at h
    exact finish_transfer_effect (Moves.pushWord _ s) _ _ h
  | rts => exact finish_transfer_effect (Moves.pullWord s) _ _ h
  | brk ss => exact enterTrap_effect _ h
  | rti => exact returnFromTrap_effect _ h
  | bpl rr => exact branch_effect (Moves.refl s) h
  | bmi rr => exact branch_effect (Moves.refl s) h
  | bvc rr => exact branch_effect (Moves.refl s) h
  | bvs rr => exact branch_effect (Moves.refl s) h
  | bcc rr => exact branch_effect (Moves.refl s) h
  | bcs rr => exact branch_effect (Moves.refl s) h
  | bne rr => exact branch_effect (Moves.refl s) h
  | beq rr => exact branch_effect (Moves.refl s) h
  | bra rr => exact branch_effect (Moves.refl s) (show branch (.bra rr) (startOf (.bra rr) s) true 0 rr s = .next t from h)
  | bbr0 nn rr => exact bitBranch_effect h
  | bbr1 nn rr => exact bitBranch_effect h
  | bbr2 nn rr => exact bitBranch_effect h
  | bbr3 nn rr => exact bitBranch_effect h
  | bbr4 nn rr => exact bitBranch_effect h
  | bbr5 nn rr => exact bitBranch_effect h
  | bbr6 nn rr => exact bitBranch_effect h
  | bbr7 nn rr => exact bitBranch_effect h
  | bbs0 nn rr => exact bitBranch_effect h
  | bbs1 nn rr => exact bitBranch_effect h
  | bbs2 nn rr => exact bitBranch_effect h
  | bbs3 nn rr => exact bitBranch_effect h
  | bbs4 nn rr => exact bitBranch_effect h
  | bbs5 nn rr => exact bitBranch_effect h
  | bbs6 nn rr => exact bitBranch_effect h
  | bbs7 nn rr => exact bitBranch_effect h
  | clc => exact finish_effect (Moves.setP _ _ (fun hb => getF_b_setF _ _ _ (by decide) hb)) h
  | sec => exact finish_effect (Moves.setP _ _ (fun hb => getF_b_setF _ _ _ (by decide) hb)) h
  | cli => exact finish_effect (Moves.setP _ _ (fun hb => getF_b_setF _ _ _ (by decide) hb)) h
  | sei => exact finish_effect (Moves.setP _ _ (fun hb => getF_b_setF _ _ _ (by decide) hb)) h
  | cld => exact finish_effect (Moves.setP _ _ (fun hb => getF_b_setF _ _ _ (by decide) hb)) h
  | sed => exact finish_effect (Moves.setP _ _ (fun hb => getF_b_setF _ _ _ (by decide) hb)) h
  | clv => exact finish_effect (Moves.setP _ _ (fun hb => getF_b_setF _ _ _ (by decide) hb)) h
  | nop => exact finish_effect (Moves.refl s) h
  | wai =>
    cases h
    exact ⟨(Moves.refl s).bus, KeepsUB.refl _, .inr (.inl ⟨rfl, rfl⟩), rfl, rfl, rfl, .inl rfl, rfl, rfl⟩
  | stp =>
    cases h
    exact ⟨(Moves.refl s).bus, KeepsUB.refl _, .inr (.inr ⟨rfl, rfl⟩), rfl, rfl, rfl, .inl rfl, rfl, rfl⟩
  | nopU1 op => exact undocumented_effect h
  | nopU2 op ii => exact undocumented_effect h
  | nopU2zp op nn => exact undocumented_effect h
  | nopU3 op w => exact undocumented_effect h

/-- A trapped JSR: its next state, for the answer `r` of the context. -/
theorem exec_jsr_trapped (w : Word) (s t : State) (hw : s.cfg.mliTrapAddr = some w) (h : exec (.jsr w) s = .next t) :
    ∃ (m : Banked) (es : List BusEvent) (r : OsReply) (start : Word),
      m = replay es s.mem ∧ writtenBy es = [] ∧
      t = { s with
            a := r.status, p := forceU (setF .c (r.status != 0) s.p), pc := start + 6, mem := OsReply.applyTo r m
            bus := s.bus ++ es, trace := recordIn s.cfg.traceCap start (start + 6) s.trace
            cycles := 6, osCalls := s.osCalls + 1 } := by
  have ht : isTrapTarget s.cfg w = true := by simp [isTrapTarget, hw]
  have h' : osTrap (.jsr w) (startOf (.jsr w) s) s = .next t := by simpa only [exec, execJsr, ht, if_true] using h
  cases hc : s.cfg.ctx with
  | false => rw [osTrap_no_ctx _ _ _ hc] at h'; cases h'
  | true =>
    rw [osTrap_eq _ _ _ hc] at h'
    cases h'
    refine ⟨_, [readEv s.mem (startOf (.jsr w) s + 3), readEv s.mem (startOf (.jsr w) s + 4),
      readEv s.mem (startOf (.jsr w) s + 5)], _, startOf (.jsr w) s, rfl, rfl, rfl⟩

/-- A trapped JSR faults exactly when no context is attached, and is never refused. -/
theorem exec_jsr_outcome (w : Word) (s : State) :
    (∃ t, exec (.jsr w) s = .next t) ∨
      (exec (.jsr w) s = .fault .noMLIContext ∧ s.cfg.ctx = false ∧ s.cfg.mliTrapAddr = some w) := by
  cases ht : isTrapTarget s.cfg w with
  | false => exact .inl ⟨_, by simp only [exec, execJsr, ht]; rfl⟩
  | true =>
    have hw : s.cfg.mliTrapAddr = some w := by simpa [isTrapTarget] using ht
    cases hc : s.cfg.ctx with
    | false => exact .inr ⟨by simp only [exec, execJsr, ht, if_true, osTrap_no_ctx _ _ _ hc], rfl, hw⟩
    | true => exact .inl ⟨_, by simp only [exec, execJsr, ht, if_true]; rw [osTrap_eq _ _ _ hc]⟩

/-- The parameters after fetches. -/
@[simp] theorem fetchBytes_cfg (n : Nat) (s : State) : (fetchBytes n s).cfg = s.cfg := (Moves.fetchBytes n s).cfg

@[simp] theorem clearOutputs_mem (s : State) : s.clearOutputs.mem = s.mem := rfl

/-- Every step that answers a next state: a step of Waiting or Stopped, or an instruction after its fetches. -/
theorem step_next_cases (s t : State) (h : step s = .next t) :
    s.fault = none ∧ s.refusal = none ∧ s.booted = true ∧
      ((s.execState ≠ .running ∧ t = s.clearOutputs) ∨ (s.execState = .running ∧ runInstr s = .next t)) := by
  unfold step at h
  split at h
  · cases h
  · rename_i hf
    split at h
    · cases h
    · rename_i hr
      split at h
      · rename_i hb
        refine ⟨hf, hr, hb, ?_⟩
        split at h
        · rename_i he; exact .inr ⟨he, h⟩
        · rename_i he; cases h; exact .inl ⟨by simp [he], rfl⟩
        · rename_i he; cases h; exact .inl ⟨by simp [he], rfl⟩
      · cases h

/-- A step that is not at a trapped JSR, as one effect from the state with cleared outputs. -/
theorem runInstr_effect (s t : State) (hn : ¬ s.AtTrap) (h : runInstr s = .next t) :
    Effect (instrAt s) s.clearOutputs t := by
  have hm := Moves.fetchBytes (instrAt s).fetched s.clearOutputs
  have he := exec_effect (instrAt s) _ t (fun w hw hc => hn ⟨w, hw, by rw [hm.cfg] at hc; exact hc⟩) h
  obtain ⟨es, h1, h2, h3⟩ := hm.bus
  obtain ⟨fs, g1, g2, g3⟩ := he.bus
  refine ⟨⟨es ++ fs, ?_, ?_, ?_⟩, hm.p.trans he.p, ?_, he.fault.trans hm.fault, he.refusal.trans hm.refusal,
    he.booted.trans hm.booted, ?_, he.cfg.trans hm.cfg, he.osCalls.trans hm.osCalls⟩
  · rw [g1, h1, replay_append]
  · rw [g2, h2, List.append_assoc]
  · exact TrueReads_append _ _ _ h3 (h1 ▸ g3)
  · rw [← hm.execState]; exact he.execState
  · rw [← hm.cfg, ← hm.trace]; exact he.trace

end Sys2Proof.Machine
end

