-- ==== Sys2Proof/Laws/PerInstr.lean ====
section
/-! SUPPORT. The per-instruction family Length (LAWS.json): the bytes an instruction has, and those its step fetches before its
own rule starts (30_encoding.md R130). -/

namespace Sys2Proof.Laws.Length

/-- An instruction has 1 to 3 bytes, at least one is fetched before its rule starts and never more than it has, and its encoding
has that many bytes. -/
def Statement (i : Instr) : Prop :=
  1 ≤ i.fetched ∧ i.fetched ≤ i.length ∧ i.length ≤ 3 ∧ ∀ bs, encode i = some bs → bs.length = i.length

/-- The three bounds, as a computation. -/
def inOrder (i : Instr) : Bool := Nat.ble 1 i.fetched && Nat.ble i.fetched i.length && Nat.ble i.length 3

theorem inOrder_iff (i : Instr) : inOrder i = true ↔ 1 ≤ i.fetched ∧ i.fetched ≤ i.length ∧ i.length ≤ 3 := by
  simp [inOrder, and_assoc]

theorem ofFixed (i : Instr) (ws : List Byte) (he : encode i = some ws) (hl : ws.length = i.length)
    (h : inOrder i = true) : Statement i := by
  have h := (inOrder_iff i).1 h
  refine ⟨h.1, h.2.1, h.2.2, fun bs hb => ?_⟩
  rw [he] at hb; cases hb; exact hl

theorem memOperandBytes_le (m : Mem) : m.operandBytes ≤ 2 := by cases m <;> simp [Mem.operandBytes]

theorem memBytes_length (m : Mem) : m.bytes.length = m.operandBytes := by cases m <;> rfl

theorem memEncode_length (t : List (Mode × Byte)) (m : Mem) (bs : List Byte) (h : m.encode t = some bs) :
    bs.length = 1 + m.operandBytes := by
  unfold Mem.encode at h
  cases ho : m.opcode t with
  | none => simp [ho] at h
  | some op =>
    simp only [ho, Option.map_some, Option.some.injEq] at h
    rw [← h, List.length_cons, memBytes_length, Nat.add_comm]

theorem ofMem (i : Instr) (m : Mem) (t : List (Mode × Byte)) (he : encode i = m.encode t) (hf : i.fetched = 1 + m.operandBytes)
    (hl : i.length = 1 + m.operandBytes) : Statement i := by
  have hm := memOperandBytes_le m
  refine ⟨by omega, by omega, by omega, fun bs hb => ?_⟩
  rw [hl]; exact memEncode_length t m bs (he ▸ hb)

theorem ofSrc (i : Instr) (src : Src) (op : Byte) (t : List (Mode × Byte)) (he : encode i = src.encode op t)
    (hf : i.fetched = 1 + src.operandBytes) (hl : i.length = 1 + src.operandBytes) : Statement i := by
  cases src with
  | imm v => exact ofFixed i _ he (by rw [hl]; rfl) (by rw [inOrder, hf, hl]; rfl)
  | mem m => exact ofMem i m t he hf hl

theorem ofDst (i : Instr) (dst : Dst) (op : Byte) (t : List (Mode × Byte)) (he : encode i = dst.encode op t)
    (hf : i.fetched = 1 + dst.operandBytes) (hl : i.length = 1 + dst.operandBytes) : Statement i := by
  cases dst with
  | acc => exact ofFixed i _ he (by rw [hl]; rfl) (by rw [inOrder, hf, hl]; rfl)
  | mem m => exact ofMem i m t he hf hl

theorem ofUnassigned (i : Instr) (c : Bool) (ws : List Byte) (he : encode i = if c then some ws else none)
    (hl : ws.length = i.length) (h : inOrder i = true) : Statement i := by
  have h := (inOrder_iff i).1 h
  refine ⟨h.1, h.2.1, h.2.2, fun bs hb => ?_⟩
  rw [he] at hb
  cases c with
  | false => cases hb
  | true => cases hb; exact hl

theorem lda (src : Src) : Statement (.lda src) := ofSrc _ src _ _ rfl rfl rfl

theorem ldx (src : Src) : Statement (.ldx src) := ofSrc _ src _ _ rfl rfl rfl

theorem ldy (src : Src) : Statement (.ldy src) := ofSrc _ src _ _ rfl rfl rfl

theorem sta (m : Mem) : Statement (.sta m) := ofMem _ m _ rfl rfl rfl

theorem stx (m : Mem) : Statement (.stx m) := ofMem _ m _ rfl rfl rfl

theorem sty (m : Mem) : Statement (.sty m) := ofMem _ m _ rfl rfl rfl

theorem stz (m : Mem) : Statement (.stz m) := ofMem _ m _ rfl rfl rfl

theorem tax : Statement .tax := ofFixed _ _ rfl rfl rfl

theorem tay : Statement .tay := ofFixed _ _ rfl rfl rfl

theorem txa : Statement .txa := ofFixed _ _ rfl rfl rfl

theorem tya : Statement .tya := ofFixed _ _ rfl rfl rfl

theorem tsx : Statement .tsx := ofFixed _ _ rfl rfl rfl

theorem txs : Statement .txs := ofFixed _ _ rfl rfl rfl

theorem pha : Statement .pha := ofFixed _ _ rfl rfl rfl

theorem php : Statement .php := ofFixed _ _ rfl rfl rfl

theorem phx : Statement .phx := ofFixed _ _ rfl rfl rfl

theorem phy : Statement .phy := ofFixed _ _ rfl rfl rfl

theorem pla : Statement .pla := ofFixed _ _ rfl rfl rfl

theorem plp : Statement .plp := ofFixed _ _ rfl rfl rfl

theorem plx : Statement .plx := ofFixed _ _ rfl rfl rfl

theorem ply : Statement .ply := ofFixed _ _ rfl rfl rfl

theorem adc (src : Src) : Statement (.adc src) := ofSrc _ src _ _ rfl rfl rfl

theorem sbc (src : Src) : Statement (.sbc src) := ofSrc _ src _ _ rfl rfl rfl

theorem cmp (src : Src) : Statement (.cmp src) := ofSrc _ src _ _ rfl rfl rfl

theorem cpx (src : Src) : Statement (.cpx src) := ofSrc _ src _ _ rfl rfl rfl

theorem cpy (src : Src) : Statement (.cpy src) := ofSrc _ src _ _ rfl rfl rfl

theorem and (src : Src) : Statement (.and src) := ofSrc _ src _ _ rfl rfl rfl

theorem ora (src : Src) : Statement (.ora src) := ofSrc _ src _ _ rfl rfl rfl

theorem eor (src : Src) : Statement (.eor src) := ofSrc _ src _ _ rfl rfl rfl

theorem bit (src : Src) : Statement (.bit src) := ofSrc _ src _ _ rfl rfl rfl

theorem tsb (m : Mem) : Statement (.tsb m) := ofMem _ m _ rfl rfl rfl

theorem trb (m : Mem) : Statement (.trb m) := ofMem _ m _ rfl rfl rfl

theorem rmb0 (nn : Byte) : Statement (.rmb0 nn) := ofFixed _ _ rfl rfl rfl

theorem rmb1 (nn : Byte) : Statement (.rmb1 nn) := ofFixed _ _ rfl rfl rfl

theorem rmb2 (nn : Byte) : Statement (.rmb2 nn) := ofFixed _ _ rfl rfl rfl

theorem rmb3 (nn : Byte) : Statement (.rmb3 nn) := ofFixed _ _ rfl rfl rfl

theorem rmb4 (nn : Byte) : Statement (.rmb4 nn) := ofFixed _ _ rfl rfl rfl

theorem rmb5 (nn : Byte) : Statement (.rmb5 nn) := ofFixed _ _ rfl rfl rfl

theorem rmb6 (nn : Byte) : Statement (.rmb6 nn) := ofFixed _ _ rfl rfl rfl

theorem rmb7 (nn : Byte) : Statement (.rmb7 nn) := ofFixed _ _ rfl rfl rfl

theorem smb0 (nn : Byte) : Statement (.smb0 nn) := ofFixed _ _ rfl rfl rfl

theorem smb1 (nn : Byte) : Statement (.smb1 nn) := ofFixed _ _ rfl rfl rfl

theorem smb2 (nn : Byte) : Statement (.smb2 nn) := ofFixed _ _ rfl rfl rfl

theorem smb3 (nn : Byte) : Statement (.smb3 nn) := ofFixed _ _ rfl rfl rfl

theorem smb4 (nn : Byte) : Statement (.smb4 nn) := ofFixed _ _ rfl rfl rfl

theorem smb5 (nn : Byte) : Statement (.smb5 nn) := ofFixed _ _ rfl rfl rfl

theorem smb6 (nn : Byte) : Statement (.smb6 nn) := ofFixed _ _ rfl rfl rfl

theorem smb7 (nn : Byte) : Statement (.smb7 nn) := ofFixed _ _ rfl rfl rfl

theorem inc (dst : Dst) : Statement (.inc dst) := ofDst _ dst _ _ rfl rfl rfl

theorem dec (dst : Dst) : Statement (.dec dst) := ofDst _ dst _ _ rfl rfl rfl

theorem inx : Statement .inx := ofFixed _ _ rfl rfl rfl

theorem iny : Statement .iny := ofFixed _ _ rfl rfl rfl

theorem dex : Statement .dex := ofFixed _ _ rfl rfl rfl

theorem dey : Statement .dey := ofFixed _ _ rfl rfl rfl

theorem asl (dst : Dst) : Statement (.asl dst) := ofDst _ dst _ _ rfl rfl rfl

theorem lsr (dst : Dst) : Statement (.lsr dst) := ofDst _ dst _ _ rfl rfl rfl

theorem rol (dst : Dst) : Statement (.rol dst) := ofDst _ dst _ _ rfl rfl rfl

theorem ror (dst : Dst) : Statement (.ror dst) := ofDst _ dst _ _ rfl rfl rfl

theorem jmp (t : Target) : Statement (.jmp t) := by
  cases t <;> exact ofFixed _ _ rfl rfl rfl

theorem jsr (hhll : Word) : Statement (.jsr hhll) := ofFixed _ _ rfl rfl rfl

theorem rts : Statement .rts := ofFixed _ _ rfl rfl rfl

theorem brk (ss : Byte) : Statement (.brk ss) := ofFixed _ _ rfl rfl rfl

theorem rti : Statement .rti := ofFixed _ _ rfl rfl rfl

theorem bpl (rr : Byte) : Statement (.bpl rr) := ofFixed _ _ rfl rfl rfl

theorem bmi (rr : Byte) : Statement (.bmi rr) := ofFixed _ _ rfl rfl rfl

theorem bvc (rr : Byte) : Statement (.bvc rr) := ofFixed _ _ rfl rfl rfl

theorem bvs (rr : Byte) : Statement (.bvs rr) := ofFixed _ _ rfl rfl rfl

theorem bcc (rr : Byte) : Statement (.bcc rr) := ofFixed _ _ rfl rfl rfl

theorem bcs (rr : Byte) : Statement (.bcs rr) := ofFixed _ _ rfl rfl rfl

theorem bne (rr : Byte) : Statement (.bne rr) := ofFixed _ _ rfl rfl rfl

theorem beq (rr : Byte) : Statement (.beq rr) := ofFixed _ _ rfl rfl rfl

theorem bra (rr : Byte) : Statement (.bra rr) := ofFixed _ _ rfl rfl rfl

theorem bbr0 (nn rr : Byte) : Statement (.bbr0 nn rr) := ofFixed _ _ rfl rfl rfl

theorem bbr1 (nn rr : Byte) : Statement (.bbr1 nn rr) := ofFixed _ _ rfl rfl rfl

theorem bbr2 (nn rr : Byte) : Statement (.bbr2 nn rr) := ofFixed _ _ rfl rfl rfl

theorem bbr3 (nn rr : Byte) : Statement (.bbr3 nn rr) := ofFixed _ _ rfl rfl rfl

theorem bbr4 (nn rr : Byte) : Statement (.bbr4 nn rr) := ofFixed _ _ rfl rfl rfl

theorem bbr5 (nn rr : Byte) : Statement (.bbr5 nn rr) := ofFixed _ _ rfl rfl rfl

theorem bbr6 (nn rr : Byte) : Statement (.bbr6 nn rr) := ofFixed _ _ rfl rfl rfl

theorem bbr7 (nn rr : Byte) : Statement (.bbr7 nn rr) := ofFixed _ _ rfl rfl rfl

theorem bbs0 (nn rr : Byte) : Statement (.bbs0 nn rr) := ofFixed _ _ rfl rfl rfl

theorem bbs1 (nn rr : Byte) : Statement (.bbs1 nn rr) := ofFixed _ _ rfl rfl rfl

theorem bbs2 (nn rr : Byte) : Statement (.bbs2 nn rr) := ofFixed _ _ rfl rfl rfl

theorem bbs3 (nn rr : Byte) : Statement (.bbs3 nn rr) := ofFixed _ _ rfl rfl rfl

theorem bbs4 (nn rr : Byte) : Statement (.bbs4 nn rr) := ofFixed _ _ rfl rfl rfl

theorem bbs5 (nn rr : Byte) : Statement (.bbs5 nn rr) := ofFixed _ _ rfl rfl rfl

theorem bbs6 (nn rr : Byte) : Statement (.bbs6 nn rr) := ofFixed _ _ rfl rfl rfl

theorem bbs7 (nn rr : Byte) : Statement (.bbs7 nn rr) := ofFixed _ _ rfl rfl rfl

theorem clc : Statement .clc := ofFixed _ _ rfl rfl rfl

theorem sec : Statement .sec := ofFixed _ _ rfl rfl rfl

theorem cli : Statement .cli := ofFixed _ _ rfl rfl rfl

theorem sei : Statement .sei := ofFixed _ _ rfl rfl rfl

theorem cld : Statement .cld := ofFixed _ _ rfl rfl rfl

theorem sed : Statement .sed := ofFixed _ _ rfl rfl rfl

theorem clv : Statement .clv := ofFixed _ _ rfl rfl rfl

theorem nop : Statement .nop := ofFixed _ _ rfl rfl rfl

theorem wai : Statement .wai := ofFixed _ _ rfl rfl rfl

theorem stp : Statement .stp := ofFixed _ _ rfl rfl rfl

theorem nopU1 (op : Byte) : Statement (.nopU1 op) := ofUnassigned _ _ _ rfl rfl rfl

theorem nopU2 (op ii : Byte) : Statement (.nopU2 op ii) := ofUnassigned _ _ _ rfl rfl rfl

theorem nopU2zp (op nn : Byte) : Statement (.nopU2zp op nn) := ofUnassigned _ _ _ rfl rfl rfl

theorem nopU3 (op : Byte) (hhll : Word) : Statement (.nopU3 op hhll) := ofUnassigned _ _ _ rfl rfl rfl

end Sys2Proof.Laws.Length
end

