-- ==== Sys2Proof/Laws/Trace.lean ====
section
/-! SUPPORT. What recording a transition does to the trace: it keeps the order, the capacity and the shape of the entries. -/

namespace Sys2Proof.Machine

theorem recordIn_filtered (cap : Nat) (src dst : Word) (t : List TraceEntry) (h : filtered src dst = true) :
    recordIn cap src dst t = t := by simp [recordIn, h]

theorem recordIn_same (cap : Nat) (src dst : Word) (n : Nat) (t : List TraceEntry) (h : filtered src dst = false) :
    recordIn cap src dst (⟨src, dst, n⟩ :: t) = ⟨src, dst, n + 1⟩ :: t := by simp [recordIn, h]

theorem recordIn_new (cap : Nat) (src dst : Word) (t : List TraceEntry) (h : filtered src dst = false)
    (hn : ∀ e es, t = e :: es → ¬ (e.src = src ∧ e.dst = dst)) :
    recordIn cap src dst t = pushEntry cap ⟨src, dst, 1⟩ t := by
  cases t with
  | nil => simp [recordIn, h]
  | cons e es => simp [recordIn, h, hn e es rfl]

theorem filtered_iff (src dst : Word) : filtered src dst = true ↔ 0xF800 ≤ src.toNat ∧ 0xF800 ≤ dst.toNat := by
  simp [filtered]

theorem pushEntry_length (cap : Nat) (e : TraceEntry) (t : List TraceEntry) (h : t.length ≤ cap) :
    (pushEntry cap e t).length ≤ cap := by
  simp only [pushEntry]
  split
  · simp; omega
  · omega

/-- A record keeps the trace within its capacity. -/
theorem recordIn_length (cap : Nat) (src dst : Word) (t : List TraceEntry) (h : t.length ≤ cap) :
    (recordIn cap src dst t).length ≤ cap := by
  simp only [recordIn]
  split
  · exact h
  · split
    · exact pushEntry_length _ _ _ (by simp)
    · split
      · simpa using h
      · exact pushEntry_length _ _ _ h

theorem traceOk_tail (e : TraceEntry) (t : List TraceEntry) (h : traceOk (e :: t) = true) : traceOk t = true := by
  simp only [traceOk, Bool.and_eq_true] at h; exact h.2

theorem traceOk_dropLast (t : List TraceEntry) (h : traceOk t = true) : traceOk t.dropLast = true := by
  induction t with
  | nil => rfl
  | cons e t ih =>
    have ht := ih (traceOk_tail e t h)
    cases t with
    | nil => rfl
    | cons f t =>
      rw [List.dropLast_cons_of_ne_nil (by simp)]
      simp only [traceOk, Bool.and_eq_true] at h
      simp only [traceOk, ht, h.1.1, Bool.and_eq_true, and_true]
      cases t with
      | nil => simp
      | cons g t => rw [List.dropLast_cons_of_ne_nil (by simp)]; exact ⟨trivial, h.1.2⟩

theorem pushEntry_ok (cap : Nat) (e : TraceEntry) (t : List TraceEntry) (h : traceOk (e :: t) = true) :
    traceOk (pushEntry cap e t) = true := by
  simp only [pushEntry]
  split
  · exact traceOk_dropLast _ h
  · exact h

/-- A record keeps every entry counted, unfiltered and different from its neighbours. -/
theorem recordIn_ok (cap : Nat) (src dst : Word) (t : List TraceEntry) (h : traceOk t = true) :
    traceOk (recordIn cap src dst t) = true := by
  cases hf : filtered src dst with
  | true => rw [recordIn_filtered _ _ _ _ hf]; exact h
  | false =>
    cases t with
    | nil => simp only [recordIn, hf]; exact pushEntry_ok _ _ _ (by simp [traceOk, hf])
    | cons e es =>
      by_cases he : e.src = src ∧ e.dst = dst
      · obtain ⟨rfl, rfl⟩ := he
        rw [show recordIn cap e.src e.dst (e :: es) = ⟨e.src, e.dst, e.count + 1⟩ :: es by simp [recordIn, hf]]
        simp only [traceOk, Bool.and_eq_true, decide_eq_true_eq] at h ⊢
        refine ⟨⟨⟨by omega, h.1.1.2⟩, ?_⟩, h.2⟩
        cases es with
        | nil => rfl
        | cons f es => exact h.1.2
      · simp only [recordIn, hf, he, if_false, Bool.false_eq_true]
        refine pushEntry_ok _ _ _ ?_
        have : TraceEntry.sameAs ⟨src, dst, 1⟩ e = false := by
          simp only [TraceEntry.sameAs, Bool.and_eq_false_iff, beq_eq_false_iff_ne]
          by_cases h1 : e.src = src
          · exact .inr (fun h2 => he ⟨h1, h2.symm⟩)
          · exact .inl (fun h2 => h1 h2.symm)
        rw [traceOk]
        simp [hf, this, h]

end Sys2Proof.Machine
end

