-- ==== Sys2Proof/Tests/Slice0.lean ====
section
/-! SUPPORT. Tests and witnesses. Expected results come from spec/: the Encoding lines of the instruction rules, section 7 of
30_encoding.md, and the vectors of 95_test_vectors.md, each named in its docstring. The witness theorems show, for every
statement with hypotheses, concrete values that meet them. -/

namespace Sys2Proof.Tests

open Sys2Proof.Machine

/-! ## WellFormed refuses each kind of ill-formed term -/

/-- A form the mnemonic does not have: STX absolute,X; LDA zero page,Y; INC (zp); TSB zero page,X (30_encoding.md section 7). -/
theorem test_wf_refuses_forms :
    Instr.wf .present (.stx (.absx 0x1234)) = false ∧ Instr.wf .present (.lda (.mem (.zpy 0x10))) = false ∧
    Instr.wf .present (.inc (.mem (.izp 0x10))) = false ∧ Instr.wf .present (.tsb (.zpx 0x10)) = false ∧
    Instr.wf .present (.cpx (.mem (.zpx 0x10))) = false ∧ Instr.wf .present (.ldy (.mem (.absy 0x1234))) = false ∧
    Instr.wf .present (.sty (.zpy 0x10)) = false ∧ Instr.wf .present (.bit (.mem (.izx 0x10))) = false := by decide

/-- An assigned opcode, or one of another format, in a NOP* term (30_encoding.md R142). -/
theorem test_wf_refuses_unassigned_format :
    Instr.wf .present (.nopU1 0xEA) = false ∧ Instr.wf .present (.nopU1 0xCB) = false ∧ Instr.wf .present (.nopU1 0x02) = false ∧
    Instr.wf .present (.nopU2 0x44 0) = false ∧ Instr.wf .present (.nopU2zp 0x64 0) = false ∧
    Instr.wf .present (.nopU3 0x7C 0) = false := by decide

/-- The bit instructions without BITOPS, and their opcodes as NOP* with it (30_encoding.md R139). -/
theorem test_wf_follows_bitops :
    Instr.wf .absent (.rmb0 0x10) = false ∧ Instr.wf .absent (.smb7 0x10) = false ∧ Instr.wf .absent (.bbr3 0x10 0) = false ∧
    Instr.wf .absent (.bbs7 0x10 0) = false ∧ Instr.wf .present (.nopU1 0x07) = false ∧
    Instr.wf .absent (.nopU1 0x07) = true ∧ Instr.wf .present (.rmb0 0x10) = true := by decide

/-! ## Decoding: words written from the Encoding lines of the instruction rules -/

/-- Does each list of bytes decode to its instruction, with nothing left over? -/
def decodesAll (b : BitOps) (l : List (List Byte × Instr)) : Bool :=
  l.all (fun e => match decode b e.1 with
    | .ok (i, []) => i == e.2
    | _ => false)

/-- 41_load_store_transfer.md. -/
theorem test_decode_load_store_transfer :
    decodesAll .present [
      ([0xA9, 0xC3], .lda (.imm 0xC3)), ([0xA5, 0xC3], .lda (.mem (.zp 0xC3))),
      ([0xB5, 0xC3], .lda (.mem (.zpx 0xC3))), ([0xAD, 0xA5, 0xC3], .lda (.mem (.abs 0xC3A5))),
      ([0xBD, 0xA5, 0xC3], .lda (.mem (.absx 0xC3A5))), ([0xB9, 0xA5, 0xC3], .lda (.mem (.absy 0xC3A5))),
      ([0xA1, 0xC3], .lda (.mem (.izx 0xC3))), ([0xB1, 0xC3], .lda (.mem (.izy 0xC3))),
      ([0xB2, 0xC3], .lda (.mem (.izp 0xC3))), ([0xA2, 0xC3], .ldx (.imm 0xC3)),
      ([0xA6, 0xC3], .ldx (.mem (.zp 0xC3))), ([0xB6, 0xC3], .ldx (.mem (.zpy 0xC3))),
      ([0xAE, 0xA5, 0xC3], .ldx (.mem (.abs 0xC3A5))), ([0xBE, 0xA5, 0xC3], .ldx (.mem (.absy 0xC3A5))),
      ([0xA0, 0xC3], .ldy (.imm 0xC3)), ([0xA4, 0xC3], .ldy (.mem (.zp 0xC3))),
      ([0xB4, 0xC3], .ldy (.mem (.zpx 0xC3))), ([0xAC, 0xA5, 0xC3], .ldy (.mem (.abs 0xC3A5))),
      ([0xBC, 0xA5, 0xC3], .ldy (.mem (.absx 0xC3A5))), ([0x85, 0xC3], .sta (.zp 0xC3)),
      ([0x95, 0xC3], .sta (.zpx 0xC3)), ([0x8D, 0xA5, 0xC3], .sta (.abs 0xC3A5)),
      ([0x9D, 0xA5, 0xC3], .sta (.absx 0xC3A5)), ([0x99, 0xA5, 0xC3], .sta (.absy 0xC3A5))] = true ∧ decodesAll .present [
      ([0x81, 0xC3], .sta (.izx 0xC3)), ([0x91, 0xC3], .sta (.izy 0xC3)), ([0x92, 0xC3], .sta (.izp 0xC3)),
      ([0x86, 0xC3], .stx (.zp 0xC3)), ([0x96, 0xC3], .stx (.zpy 0xC3)), ([0x8E, 0xA5, 0xC3], .stx (.abs 0xC3A5)),
      ([0x84, 0xC3], .sty (.zp 0xC3)), ([0x94, 0xC3], .sty (.zpx 0xC3)), ([0x8C, 0xA5, 0xC3], .sty (.abs 0xC3A5)),
      ([0x64, 0xC3], .stz (.zp 0xC3)), ([0x74, 0xC3], .stz (.zpx 0xC3)), ([0x9C, 0xA5, 0xC3], .stz (.abs 0xC3A5)),
      ([0x9E, 0xA5, 0xC3], .stz (.absx 0xC3A5)), ([0xAA], .tax), ([0xA8], .tay), ([0x8A], .txa), ([0x98], .tya),
      ([0xBA], .tsx), ([0x9A], .txs)] = true := by decide

/-- 42_stack.md. -/
theorem test_decode_stack :
    decodesAll .present [
      ([0x48], .pha), ([0x08], .php), ([0xDA], .phx), ([0x5A], .phy), ([0x68], .pla), ([0x28], .plp), ([0xFA], .plx),
      ([0x7A], .ply)] = true := by decide

/-- 43_arith.md. -/
theorem test_decode_arith :
    decodesAll .present [
      ([0x69, 0xC3], .adc (.imm 0xC3)), ([0x65, 0xC3], .adc (.mem (.zp 0xC3))),
      ([0x75, 0xC3], .adc (.mem (.zpx 0xC3))), ([0x6D, 0xA5, 0xC3], .adc (.mem (.abs 0xC3A5))),
      ([0x7D, 0xA5, 0xC3], .adc (.mem (.absx 0xC3A5))), ([0x79, 0xA5, 0xC3], .adc (.mem (.absy 0xC3A5))),
      ([0x61, 0xC3], .adc (.mem (.izx 0xC3))), ([0x71, 0xC3], .adc (.mem (.izy 0xC3))),
      ([0x72, 0xC3], .adc (.mem (.izp 0xC3))), ([0xE9, 0xC3], .sbc (.imm 0xC3)),
      ([0xE5, 0xC3], .sbc (.mem (.zp 0xC3))), ([0xF5, 0xC3], .sbc (.mem (.zpx 0xC3))),
      ([0xED, 0xA5, 0xC3], .sbc (.mem (.abs 0xC3A5))), ([0xFD, 0xA5, 0xC3], .sbc (.mem (.absx 0xC3A5))),
      ([0xF9, 0xA5, 0xC3], .sbc (.mem (.absy 0xC3A5))), ([0xE1, 0xC3], .sbc (.mem (.izx 0xC3))),
      ([0xF1, 0xC3], .sbc (.mem (.izy 0xC3))), ([0xF2, 0xC3], .sbc (.mem (.izp 0xC3))),
      ([0xC9, 0xC3], .cmp (.imm 0xC3)), ([0xC5, 0xC3], .cmp (.mem (.zp 0xC3))),
      ([0xD5, 0xC3], .cmp (.mem (.zpx 0xC3))), ([0xCD, 0xA5, 0xC3], .cmp (.mem (.abs 0xC3A5))),
      ([0xDD, 0xA5, 0xC3], .cmp (.mem (.absx 0xC3A5))), ([0xD9, 0xA5, 0xC3], .cmp (.mem (.absy 0xC3A5)))] = true ∧ decodesAll .present [
      ([0xC1, 0xC3], .cmp (.mem (.izx 0xC3))), ([0xD1, 0xC3], .cmp (.mem (.izy 0xC3))),
      ([0xD2, 0xC3], .cmp (.mem (.izp 0xC3))), ([0xE0, 0xC3], .cpx (.imm 0xC3)),
      ([0xE4, 0xC3], .cpx (.mem (.zp 0xC3))), ([0xEC, 0xA5, 0xC3], .cpx (.mem (.abs 0xC3A5))),
      ([0xC0, 0xC3], .cpy (.imm 0xC3)), ([0xC4, 0xC3], .cpy (.mem (.zp 0xC3))),
      ([0xCC, 0xA5, 0xC3], .cpy (.mem (.abs 0xC3A5)))] = true := by decide

/-- 44_logic_bit.md. -/
theorem test_decode_logic_bit :
    decodesAll .present [
      ([0x29, 0xC3], .and (.imm 0xC3)), ([0x25, 0xC3], .and (.mem (.zp 0xC3))),
      ([0x35, 0xC3], .and (.mem (.zpx 0xC3))), ([0x2D, 0xA5, 0xC3], .and (.mem (.abs 0xC3A5))),
      ([0x3D, 0xA5, 0xC3], .and (.mem (.absx 0xC3A5))), ([0x39, 0xA5, 0xC3], .and (.mem (.absy 0xC3A5))),
      ([0x21, 0xC3], .and (.mem (.izx 0xC3))), ([0x31, 0xC3], .and (.mem (.izy 0xC3))),
      ([0x32, 0xC3], .and (.mem (.izp 0xC3))), ([0x09, 0xC3], .ora (.imm 0xC3)),
      ([0x05, 0xC3], .ora (.mem (.zp 0xC3))), ([0x15, 0xC3], .ora (.mem (.zpx 0xC3))),
      ([0x0D, 0xA5, 0xC3], .ora (.mem (.abs 0xC3A5))), ([0x1D, 0xA5, 0xC3], .ora (.mem (.absx 0xC3A5))),
      ([0x19, 0xA5, 0xC3], .ora (.mem (.absy 0xC3A5))), ([0x01, 0xC3], .ora (.mem (.izx 0xC3))),
      ([0x11, 0xC3], .ora (.mem (.izy 0xC3))), ([0x12, 0xC3], .ora (.mem (.izp 0xC3))),
      ([0x49, 0xC3], .eor (.imm 0xC3)), ([0x45, 0xC3], .eor (.mem (.zp 0xC3))),
      ([0x55, 0xC3], .eor (.mem (.zpx 0xC3))), ([0x4D, 0xA5, 0xC3], .eor (.mem (.abs 0xC3A5))),
      ([0x5D, 0xA5, 0xC3], .eor (.mem (.absx 0xC3A5))), ([0x59, 0xA5, 0xC3], .eor (.mem (.absy 0xC3A5)))] = true ∧ decodesAll .present [
      ([0x41, 0xC3], .eor (.mem (.izx 0xC3))), ([0x51, 0xC3], .eor (.mem (.izy 0xC3))),
      ([0x52, 0xC3], .eor (.mem (.izp 0xC3))), ([0x89, 0xC3], .bit (.imm 0xC3)),
      ([0x24, 0xC3], .bit (.mem (.zp 0xC3))), ([0x34, 0xC3], .bit (.mem (.zpx 0xC3))),
      ([0x2C, 0xA5, 0xC3], .bit (.mem (.abs 0xC3A5))), ([0x3C, 0xA5, 0xC3], .bit (.mem (.absx 0xC3A5))),
      ([0x04, 0xC3], .tsb (.zp 0xC3)), ([0x0C, 0xA5, 0xC3], .tsb (.abs 0xC3A5)), ([0x14, 0xC3], .trb (.zp 0xC3)),
      ([0x1C, 0xA5, 0xC3], .trb (.abs 0xC3A5))] = true := by decide

/-- 44_logic_bit.md. -/
theorem test_decode_logic_bit_bits :
    decodesAll .present [
      ([0x07, 0xC3], .rmb0 0xC3), ([0x17, 0xC3], .rmb1 0xC3), ([0x27, 0xC3], .rmb2 0xC3), ([0x37, 0xC3], .rmb3 0xC3),
      ([0x47, 0xC3], .rmb4 0xC3), ([0x57, 0xC3], .rmb5 0xC3), ([0x67, 0xC3], .rmb6 0xC3), ([0x77, 0xC3], .rmb7 0xC3),
      ([0x87, 0xC3], .smb0 0xC3), ([0x97, 0xC3], .smb1 0xC3), ([0xA7, 0xC3], .smb2 0xC3), ([0xB7, 0xC3], .smb3 0xC3),
      ([0xC7, 0xC3], .smb4 0xC3), ([0xD7, 0xC3], .smb5 0xC3), ([0xE7, 0xC3], .smb6 0xC3), ([0xF7, 0xC3], .smb7 0xC3)] = true := by decide

/-- 45_incdec_shift.md. -/
theorem test_decode_incdec_shift :
    decodesAll .present [
      ([0x1A], .inc .acc), ([0xE6, 0xC3], .inc (.mem (.zp 0xC3))), ([0xF6, 0xC3], .inc (.mem (.zpx 0xC3))),
      ([0xEE, 0xA5, 0xC3], .inc (.mem (.abs 0xC3A5))), ([0xFE, 0xA5, 0xC3], .inc (.mem (.absx 0xC3A5))),
      ([0x3A], .dec .acc), ([0xC6, 0xC3], .dec (.mem (.zp 0xC3))), ([0xD6, 0xC3], .dec (.mem (.zpx 0xC3))),
      ([0xCE, 0xA5, 0xC3], .dec (.mem (.abs 0xC3A5))), ([0xDE, 0xA5, 0xC3], .dec (.mem (.absx 0xC3A5))),
      ([0xE8], .inx), ([0xC8], .iny), ([0xCA], .dex), ([0x88], .dey), ([0x0A], .asl .acc),
      ([0x06, 0xC3], .asl (.mem (.zp 0xC3))), ([0x16, 0xC3], .asl (.mem (.zpx 0xC3))),
      ([0x0E, 0xA5, 0xC3], .asl (.mem (.abs 0xC3A5))), ([0x1E, 0xA5, 0xC3], .asl (.mem (.absx 0xC3A5))),
      ([0x4A], .lsr .acc), ([0x46, 0xC3], .lsr (.mem (.zp 0xC3))), ([0x56, 0xC3], .lsr (.mem (.zpx 0xC3))),
      ([0x4E, 0xA5, 0xC3], .lsr (.mem (.abs 0xC3A5))), ([0x5E, 0xA5, 0xC3], .lsr (.mem (.absx 0xC3A5)))] = true ∧ decodesAll .present [
      ([0x2A], .rol .acc), ([0x26, 0xC3], .rol (.mem (.zp 0xC3))), ([0x36, 0xC3], .rol (.mem (.zpx 0xC3))),
      ([0x2E, 0xA5, 0xC3], .rol (.mem (.abs 0xC3A5))), ([0x3E, 0xA5, 0xC3], .rol (.mem (.absx 0xC3A5))),
      ([0x6A], .ror .acc), ([0x66, 0xC3], .ror (.mem (.zp 0xC3))), ([0x76, 0xC3], .ror (.mem (.zpx 0xC3))),
      ([0x6E, 0xA5, 0xC3], .ror (.mem (.abs 0xC3A5))), ([0x7E, 0xA5, 0xC3], .ror (.mem (.absx 0xC3A5)))] = true := by decide

/-- 46_control.md. -/
theorem test_decode_control :
    decodesAll .present [
      ([0x4C, 0xA5, 0xC3], .jmp (.abs 0xC3A5)), ([0x6C, 0xA5, 0xC3], .jmp (.ind 0xC3A5)),
      ([0x7C, 0xA5, 0xC3], .jmp (.iax 0xC3A5)), ([0x20, 0xA5, 0xC3], .jsr 0xC3A5), ([0x60], .rts),
      ([0x00, 0xC3], .brk 0xC3), ([0x40], .rti), ([0x10, 0xC3], .bpl 0xC3), ([0x30, 0xC3], .bmi 0xC3),
      ([0x50, 0xC3], .bvc 0xC3), ([0x70, 0xC3], .bvs 0xC3), ([0x90, 0xC3], .bcc 0xC3), ([0xB0, 0xC3], .bcs 0xC3),
      ([0xD0, 0xC3], .bne 0xC3), ([0xF0, 0xC3], .beq 0xC3), ([0x80, 0xC3], .bra 0xC3)] = true := by decide

/-- 46_control.md. -/
theorem test_decode_control_bits :
    decodesAll .present [
      ([0x0F, 0xC3, 0xA5], .bbr0 0xC3 0xA5), ([0x1F, 0xC3, 0xA5], .bbr1 0xC3 0xA5),
      ([0x2F, 0xC3, 0xA5], .bbr2 0xC3 0xA5), ([0x3F, 0xC3, 0xA5], .bbr3 0xC3 0xA5),
      ([0x4F, 0xC3, 0xA5], .bbr4 0xC3 0xA5), ([0x5F, 0xC3, 0xA5], .bbr5 0xC3 0xA5),
      ([0x6F, 0xC3, 0xA5], .bbr6 0xC3 0xA5), ([0x7F, 0xC3, 0xA5], .bbr7 0xC3 0xA5),
      ([0x8F, 0xC3, 0xA5], .bbs0 0xC3 0xA5), ([0x9F, 0xC3, 0xA5], .bbs1 0xC3 0xA5),
      ([0xAF, 0xC3, 0xA5], .bbs2 0xC3 0xA5), ([0xBF, 0xC3, 0xA5], .bbs3 0xC3 0xA5),
      ([0xCF, 0xC3, 0xA5], .bbs4 0xC3 0xA5), ([0xDF, 0xC3, 0xA5], .bbs5 0xC3 0xA5),
      ([0xEF, 0xC3, 0xA5], .bbs6 0xC3 0xA5), ([0xFF, 0xC3, 0xA5], .bbs7 0xC3 0xA5)] = true := by decide

/-- 47_flags_system.md. -/
theorem test_decode_flags_system :
    decodesAll .present [
      ([0x18], .clc), ([0x38], .sec), ([0x58], .cli), ([0x78], .sei), ([0xD8], .cld), ([0xF8], .sed), ([0xB8], .clv),
      ([0xEA], .nop), ([0xCB], .wai), ([0xDB], .stp)] = true := by decide

/-- 30_encoding.md R142. -/
theorem test_decode_nopstar :
    decodesAll .present [
      ([0x03], .nopU1 0x03), ([0x0B], .nopU1 0x0B), ([0xF3], .nopU1 0xF3), ([0xFB], .nopU1 0xFB),
      ([0x02, 0xC3], .nopU2 0x02 0xC3), ([0x22, 0xC3], .nopU2 0x22 0xC3), ([0x42, 0xC3], .nopU2 0x42 0xC3),
      ([0x62, 0xC3], .nopU2 0x62 0xC3), ([0x82, 0xC3], .nopU2 0x82 0xC3), ([0xC2, 0xC3], .nopU2 0xC2 0xC3),
      ([0xE2, 0xC3], .nopU2 0xE2 0xC3), ([0x44, 0xC3], .nopU2zp 0x44 0xC3), ([0x54, 0xC3], .nopU2zp 0x54 0xC3),
      ([0xD4, 0xC3], .nopU2zp 0xD4 0xC3), ([0xF4, 0xC3], .nopU2zp 0xF4 0xC3), ([0x5C, 0xA5, 0xC3], .nopU3 0x5C 0xC3A5),
      ([0xDC, 0xA5, 0xC3], .nopU3 0xDC 0xC3A5), ([0xFC, 0xA5, 0xC3], .nopU3 0xFC 0xC3A5)] = true := by decide

/-- Too few bytes, and no byte, are refused by name. -/
theorem test_decode_refuses_truncated :
    (match decode .present [0xAD, 0x34] with | .error (.truncated 0xAD) => true | _ => false) = true ∧
    (match decode .present [] with | .error .noBytes => true | _ => false) = true := by decide

/-- Without BITOPS 0x07 and 0xFF are 1-byte unassigned opcodes (30_encoding.md R139, R142). -/
theorem test_decode_without_bitops : decodesAll .absent [([0x07], .nopU1 0x07), ([0xFF], .nopU1 0xFF), ([0xCB], .wai)] = true := by
  decide

/-- Every opcode byte, with and without BITOPS: what it decodes to is well-formed and encodes to those bytes. -/
theorem test_every_opcode_round_trips : ∀ op : Byte,
    ([BitOps.present, BitOps.absent].all (fun b =>
      (decodeOp b op 0xA5 0xC3).wf b &&
      encode (decodeOp b op 0xA5 0xC3) == some ([op, 0xA5, 0xC3].take (decodeOp b op 0xA5 0xC3).length))) = true := by decide

/-- The bytes a table word stands for, and where step finds them (log 17, log 18). -/
theorem test_table_word :
    decodeTableWord 24 0x12F0BD = some (.lda (.mem (.absx 0x12F0))) ∧ decodeTableWord 8 0xEA = some .nop ∧
    decodeTableWord 8 0x4C = some (.jmp (.abs 0x0000)) ∧
    instrAt (State.reset.withFetchWord 24 0x12F0BD) = .lda (.mem (.absx 0x12F0)) ∧
    instrAt ({ State.reset with pc := 0xFFFE }.withFetchWord 16 0x42A9) = .lda (.imm 0x42) := by decide

/-! ## Base counts and lengths: the cycles and bytes columns of 30_encoding.md section 7 -/

/-- One row of the opcode grid, 16 opcodes, with zero operand bytes. -/
def row (f : Instr → Nat) (r : Nat) : List Nat :=
  (List.range 16).map (fun k => f (decodeOp .present (BitVec.ofNat 8 (16 * r + k)) 0x00 0x00))

theorem test_base_cycles :
    row (fun i => baseCycles i) 0x0 = [7, 6, 2, 1, 5, 3, 5, 5, 3, 2, 2, 1, 6, 4, 6, 5] ∧
    row (fun i => baseCycles i) 0x1 = [2, 5, 5, 1, 5, 4, 6, 5, 2, 4, 2, 1, 6, 4, 6, 5] ∧
    row (fun i => baseCycles i) 0x2 = [6, 6, 2, 1, 3, 3, 5, 5, 4, 2, 2, 1, 4, 4, 6, 5] ∧
    row (fun i => baseCycles i) 0x3 = [2, 5, 5, 1, 4, 4, 6, 5, 2, 4, 2, 1, 4, 4, 6, 5] ∧
    row (fun i => baseCycles i) 0x4 = [6, 6, 2, 1, 3, 3, 5, 5, 3, 2, 2, 1, 3, 4, 6, 5] ∧
    row (fun i => baseCycles i) 0x5 = [2, 5, 5, 1, 4, 4, 6, 5, 2, 4, 3, 1, 8, 4, 6, 5] ∧
    row (fun i => baseCycles i) 0x6 = [6, 6, 2, 1, 3, 3, 5, 5, 4, 2, 2, 1, 6, 4, 6, 5] ∧
    row (fun i => baseCycles i) 0x7 = [2, 5, 5, 1, 4, 4, 6, 5, 2, 4, 4, 1, 6, 4, 6, 5] ∧
    row (fun i => baseCycles i) 0x8 = [3, 6, 2, 1, 3, 3, 3, 5, 2, 2, 2, 1, 4, 4, 4, 5] ∧
    row (fun i => baseCycles i) 0x9 = [2, 6, 5, 1, 4, 4, 4, 5, 2, 5, 2, 1, 4, 5, 5, 5] ∧
    row (fun i => baseCycles i) 0xA = [2, 6, 2, 1, 3, 3, 3, 5, 2, 2, 2, 1, 4, 4, 4, 5] ∧
    row (fun i => baseCycles i) 0xB = [2, 5, 5, 1, 4, 4, 4, 5, 2, 4, 2, 1, 4, 4, 4, 5] ∧
    row (fun i => baseCycles i) 0xC = [2, 6, 2, 1, 3, 3, 5, 5, 2, 2, 2, 3, 4, 4, 6, 5] ∧
    row (fun i => baseCycles i) 0xD = [2, 5, 5, 1, 4, 4, 6, 5, 2, 4, 3, 3, 4, 4, 7, 5] ∧
    row (fun i => baseCycles i) 0xE = [2, 6, 2, 1, 3, 3, 5, 5, 2, 2, 2, 1, 4, 4, 6, 5] ∧
    row (fun i => baseCycles i) 0xF = [2, 5, 5, 1, 4, 4, 6, 5, 2, 4, 4, 1, 4, 4, 7, 5] := by decide

theorem test_lengths :
    row (fun i => i.length) 0x0 = [2, 2, 2, 1, 2, 2, 2, 2, 1, 2, 1, 1, 3, 3, 3, 3] ∧
    row (fun i => i.length) 0x1 = [2, 2, 2, 1, 2, 2, 2, 2, 1, 3, 1, 1, 3, 3, 3, 3] ∧
    row (fun i => i.length) 0x2 = [3, 2, 2, 1, 2, 2, 2, 2, 1, 2, 1, 1, 3, 3, 3, 3] ∧
    row (fun i => i.length) 0x3 = [2, 2, 2, 1, 2, 2, 2, 2, 1, 3, 1, 1, 3, 3, 3, 3] ∧
    row (fun i => i.length) 0x4 = [1, 2, 2, 1, 2, 2, 2, 2, 1, 2, 1, 1, 3, 3, 3, 3] ∧
    row (fun i => i.length) 0x5 = [2, 2, 2, 1, 2, 2, 2, 2, 1, 3, 1, 1, 3, 3, 3, 3] ∧
    row (fun i => i.length) 0x6 = [1, 2, 2, 1, 2, 2, 2, 2, 1, 2, 1, 1, 3, 3, 3, 3] ∧
    row (fun i => i.length) 0x7 = [2, 2, 2, 1, 2, 2, 2, 2, 1, 3, 1, 1, 3, 3, 3, 3] ∧
    row (fun i => i.length) 0x8 = [2, 2, 2, 1, 2, 2, 2, 2, 1, 2, 1, 1, 3, 3, 3, 3] ∧
    row (fun i => i.length) 0x9 = [2, 2, 2, 1, 2, 2, 2, 2, 1, 3, 1, 1, 3, 3, 3, 3] ∧
    row (fun i => i.length) 0xA = [2, 2, 2, 1, 2, 2, 2, 2, 1, 2, 1, 1, 3, 3, 3, 3] ∧
    row (fun i => i.length) 0xB = [2, 2, 2, 1, 2, 2, 2, 2, 1, 3, 1, 1, 3, 3, 3, 3] ∧
    row (fun i => i.length) 0xC = [2, 2, 2, 1, 2, 2, 2, 2, 1, 2, 1, 1, 3, 3, 3, 3] ∧
    row (fun i => i.length) 0xD = [2, 2, 2, 1, 2, 2, 2, 2, 1, 3, 1, 1, 3, 3, 3, 3] ∧
    row (fun i => i.length) 0xE = [2, 2, 2, 1, 2, 2, 2, 2, 1, 2, 1, 1, 3, 3, 3, 3] ∧
    row (fun i => i.length) 0xF = [2, 2, 2, 1, 2, 2, 2, 2, 1, 3, 1, 1, 3, 3, 3, 3] := by decide

/-! ## One step: the vectors of 95_test_vectors.md section 2 -/

/-- Write listed bytes into a store. -/
def placeAll : List (Nat × Byte) → Memory → Memory
  | [], m => m
  | (a, v) :: l, m => placeAll l (Memory.write m a v)

/-- The default start of 95_test_vectors.md, with PC and some bytes of `ram`. -/
def start (pc : Word) (cells : List (Nat × Byte)) : State :=
  { State.reset with pc := pc, bus := [], mem := { State.reset.mem with ram := placeAll cells [] } }

/-- Every listed byte of `ram` holds its value. -/
def holds (m : Memory) : List (Nat × Byte) → Bool
  | [] => true
  | (a, v) :: l => Memory.read m a == v && holds m l

/-- The step ends in a state with these A, X, Y, SP and P, this PC, this count, and these bytes in `ram`. -/
def endsIn (r : Result) (regs : List Byte) (pc : Word) (cycles : Nat) (cells : List (Nat × Byte)) : Bool :=
  match r with
  | .next t => [t.a, t.x, t.y, t.sp, t.p] == regs && t.pc == pc && t.cycles == cycles && holds t.mem.ram cells
  | _ => false

/-- V5 (R200). -/
theorem test_V5 : endsIn (step { start 0x0300 [(0x0300, 0xBD), (0x0301, 0xF0), (0x0302, 0x12), (0x1310, 0x99)] with x := 0x20 })
    [0x99, 0x20, 0x00, 0xFF, 0xA4] 0x0303 5 [] = true := by decide

/-- V8 (R200). -/
theorem test_V8 : endsIn (step (start 0x0300 [(0x0300, 0xB2), (0x0301, 0xFF), (0x0000, 0x12), (0x00FF, 0x34), (0x1234, 0xAB)]))
    [0xAB, 0x00, 0x00, 0xFF, 0xA4] 0x0302 5 [] = true := by decide

/-- V10 (R201). -/
theorem test_V10 : endsIn (step { start 0x0300 [(0x0300, 0xB6), (0x0301, 0x80), (0x0085, 0xFF)] with y := 0x05 })
    [0x00, 0xFF, 0x05, 0xFF, 0xA4] 0x0302 4 [] = true := by decide

/-- V11 (R201). -/
theorem test_V11 : endsIn (step { start 0x0300 [(0x0300, 0xBE), (0x0301, 0xFF), (0x0302, 0x00), (0x0101, 0x00)] with y := 0x02 })
    [0x00, 0x00, 0x02, 0xFF, 0x26] 0x0303 5 [] = true := by decide

/-- V12 (R202). -/
theorem test_V12 : endsIn (step { start 0x0300 [(0x0300, 0xBC), (0x0301, 0x00), (0x0302, 0x40), (0x4001, 0x80)] with x := 0x01 })
    [0x00, 0x01, 0x80, 0xFF, 0xA4] 0x0303 4 [] = true := by decide

/-- V13 (R203). -/
theorem test_V13 : endsIn (step { start 0x0300 [(0x0300, 0x9D), (0x0301, 0xF0), (0x0302, 0x12)] with a := 0x5A, x := 0x20 })
    [0x5A, 0x20, 0x00, 0xFF, 0x24] 0x0303 5 [(0x1310, 0x5A)] = true := by decide

/-- V14 (R203). -/
theorem test_V14 : endsIn (step { start 0x0300 [(0x0300, 0x91), (0x0301, 0x40), (0x0040, 0x01), (0x0041, 0x30)] with a := 0x77, y := 0xFF })
    [0x77, 0x00, 0xFF, 0xFF, 0x24] 0x0302 6 [(0x3100, 0x77)] = true := by decide

/-- V16 (R204). -/
theorem test_V16 : endsIn (step { start 0x0300 [(0x0300, 0x96), (0x0301, 0xFF)] with x := 0x33, y := 0x02 })
    [0x00, 0x33, 0x02, 0xFF, 0x24] 0x0302 4 [(0x0001, 0x33)] = true := by decide

/-- V17 (R205). -/
theorem test_V17 : endsIn (step { start 0x0300 [(0x0300, 0x8C), (0x0301, 0x00), (0x0302, 0x20)] with y := 0x44 })
    [0x00, 0x00, 0x44, 0xFF, 0x24] 0x0303 4 [(0x2000, 0x44)] = true := by decide

/-- V18 (R206). -/
theorem test_V18 : endsIn (step (start 0x0300 [(0x0300, 0x9C), (0x0301, 0x00), (0x0302, 0x20), (0x2000, 0xFF)]))
    [0x00, 0x00, 0x00, 0xFF, 0x24] 0x0303 4 [(0x2000, 0x00)] = true := by decide

/-- V19 (R206). -/
theorem test_V19 : endsIn (step { start 0x0300 [(0x0300, 0x74), (0x0301, 0x10), (0x0015, 0xFF)] with x := 0x05 })
    [0x00, 0x05, 0x00, 0xFF, 0x24] 0x0302 4 [(0x0015, 0x00)] = true := by decide

/-- V20 (R207). -/
theorem test_V20 : endsIn (step { start 0x0300 [(0x0300, 0xAA)] with x := 0x55 })
    [0x00, 0x00, 0x00, 0xFF, 0x26] 0x0301 2 [] = true := by decide

/-- V21 (R208). -/
theorem test_V21 : endsIn (step { start 0x0300 [(0x0300, 0xA8)] with a := 0x80 })
    [0x80, 0x00, 0x80, 0xFF, 0xA4] 0x0301 2 [] = true := by decide

/-- V22 (R209). -/
theorem test_V22 : endsIn (step { start 0x0300 [(0x0300, 0x8A)] with a := 0xFF, x := 0x01 })
    [0x01, 0x01, 0x00, 0xFF, 0x24] 0x0301 2 [] = true := by decide

/-- V23 (R210). -/
theorem test_V23 : endsIn (step { start 0x0300 [(0x0300, 0x98)] with a := 0x12 })
    [0x00, 0x00, 0x00, 0xFF, 0x26] 0x0301 2 [] = true := by decide

/-- V24 (R211). -/
theorem test_V24 : endsIn (step { start 0x0300 [(0x0300, 0xBA)] with sp := 0x80 })
    [0x00, 0x80, 0x00, 0x80, 0xA4] 0x0301 2 [] = true := by decide

/-- V25 (R212). -/
theorem test_V25 : endsIn (step { start 0x0300 [(0x0300, 0x9A)] with p := 0x26 })
    [0x00, 0x00, 0x00, 0x00, 0x26] 0x0301 2 [] = true := by decide

/-- V26 (R232). -/
theorem test_V26 : endsIn (step { start 0x0300 [(0x0300, 0x48)] with a := 0x5A })
    [0x5A, 0x00, 0x00, 0xFE, 0x24] 0x0301 3 [(0x01FF, 0x5A)] = true := by decide

/-- V27 (R232). -/
theorem test_V27 : endsIn (step { start 0x0300 [(0x0300, 0x48)] with a := 0x5A, sp := 0x00 })
    [0x5A, 0x00, 0x00, 0xFF, 0x24] 0x0301 3 [(0x0100, 0x5A)] = true := by decide

/-- V28 (R233). -/
theorem test_V28 : endsIn (step (start 0x0300 [(0x0300, 0x08)]))
    [0x00, 0x00, 0x00, 0xFE, 0x24] 0x0301 3 [(0x01FF, 0x34)] = true := by decide

/-- V29 (R233). -/
theorem test_V29 : endsIn (step { start 0x0300 [(0x0300, 0x08)] with p := 0xEF })
    [0x00, 0x00, 0x00, 0xFE, 0xEF] 0x0301 3 [(0x01FF, 0xFF)] = true := by decide

/-- V30 (R234). -/
theorem test_V30 : endsIn (step { start 0x0300 [(0x0300, 0xDA)] with x := 0x11, sp := 0xF0 })
    [0x00, 0x11, 0x00, 0xEF, 0x24] 0x0301 3 [(0x01F0, 0x11)] = true := by decide

/-- V31 (R235). -/
theorem test_V31 : endsIn (step { start 0x0300 [(0x0300, 0x5A)] with y := 0x22, sp := 0xF0 })
    [0x00, 0x00, 0x22, 0xEF, 0x24] 0x0301 3 [(0x01F0, 0x22)] = true := by decide

/-- V33 (R236). -/
theorem test_V33 : endsIn (step (start 0x0300 [(0x0300, 0x68), (0x0100, 0x80)]))
    [0x80, 0x00, 0x00, 0x00, 0xA4] 0x0301 4 [] = true := by decide

/-- V34 (R237). -/
theorem test_V34 : endsIn (step { start 0x0300 [(0x0300, 0x28), (0x01FF, 0xFF)] with sp := 0xFE })
    [0x00, 0x00, 0x00, 0xFF, 0xEF] 0x0301 4 [] = true := by decide

/-- V36 (R238). -/
theorem test_V36 : endsIn (step { start 0x0300 [(0x0300, 0xFA), (0x01FF, 0x80)] with sp := 0xFE })
    [0x00, 0x80, 0x00, 0xFF, 0xA4] 0x0301 4 [] = true := by decide

/-- V37 (R239). -/
theorem test_V37 : endsIn (step { start 0x0300 [(0x0300, 0x7A), (0x01FF, 0x01)] with sp := 0xFE })
    [0x00, 0x00, 0x01, 0xFF, 0x24] 0x0301 4 [] = true := by decide

/-- V44 (R252). -/
theorem test_V44 : endsIn (step { start 0x0300 [(0x0300, 0x69), (0x0301, 0x46)] with a := 0x58, p := 0x2D })
    [0x05, 0x00, 0x00, 0xFF, 0x6D] 0x0302 3 [] = true := by decide

/-- V52 (R253). -/
theorem test_V52 : endsIn (step { start 0x0300 [(0x0300, 0xE9), (0x0301, 0xB0)] with a := 0x50, p := 0x25 })
    [0xA0, 0x00, 0x00, 0xFF, 0xE4] 0x0302 2 [] = true := by decide

/-- V57 (R255). -/
theorem test_V57 : endsIn (step { start 0x0300 [(0x0300, 0xE9), (0x0301, 0x01)] with p := 0x2D })
    [0x99, 0x00, 0x00, 0xFF, 0xAC] 0x0302 3 [] = true := by decide

/-- V63 (R257). -/
theorem test_V63 : endsIn (step { start 0x0300 [(0x0300, 0xC9), (0x0301, 0x10)] with a := 0x10 })
    [0x10, 0x00, 0x00, 0xFF, 0x27] 0x0302 2 [] = true := by decide

/-- V66 (R257). -/
theorem test_V66 : endsIn (step { start 0x0300 [(0x0300, 0xC9), (0x0301, 0x00)] with a := 0x80 })
    [0x80, 0x00, 0x00, 0xFF, 0xA5] 0x0302 2 [] = true := by decide

/-- V68 (R258). -/
theorem test_V68 : endsIn (step (start 0x0300 [(0x0300, 0xE0), (0x0301, 0xFF)]))
    [0x00, 0x00, 0x00, 0xFF, 0x24] 0x0302 2 [] = true := by decide

/-- V69 (R259). -/
theorem test_V69 : endsIn (step { start 0x0300 [(0x0300, 0xC0), (0x0301, 0x10)] with y := 0x20 })
    [0x00, 0x00, 0x20, 0xFF, 0x25] 0x0302 2 [] = true := by decide

/-- V70 (R250). -/
theorem test_V70 : endsIn (step { start 0x0300 [(0x0300, 0x7D), (0x0301, 0xFF), (0x0302, 0x20), (0x2100, 0x01)] with a := 0x01, x := 0x01, p := 0x2C })
    [0x02, 0x01, 0x00, 0xFF, 0x2C] 0x0303 6 [] = true := by decide

/-- V71 (R280). -/
theorem test_V71 : endsIn (step { start 0x0300 [(0x0300, 0x29), (0x0301, 0x3C)] with a := 0xF0 })
    [0x30, 0x00, 0x00, 0xFF, 0x24] 0x0302 2 [] = true := by decide

/-- V73 (R281). -/
theorem test_V73 : endsIn (step { start 0x0300 [(0x0300, 0x09), (0x0301, 0x80)] with a := 0x01 })
    [0x81, 0x00, 0x00, 0xFF, 0xA4] 0x0302 2 [] = true := by decide

/-- V74 (R282). -/
theorem test_V74 : endsIn (step { start 0x0300 [(0x0300, 0x49), (0x0301, 0xFF)] with a := 0xFF })
    [0x00, 0x00, 0x00, 0xFF, 0x26] 0x0302 2 [] = true := by decide

/-- V76 (R283). -/
theorem test_V76 : endsIn (step { start 0x0300 [(0x0300, 0x24), (0x0301, 0x10), (0x0010, 0xC0)] with a := 0x01 })
    [0x01, 0x00, 0x00, 0xFF, 0xE6] 0x0302 3 [] = true := by decide

/-- V78 (R283). -/
theorem test_V78 : endsIn (step { start 0x0300 [(0x0300, 0x89), (0x0301, 0x80)] with a := 0x01, p := 0xE4 })
    [0x01, 0x00, 0x00, 0xFF, 0xE6] 0x0302 2 [] = true := by decide

/-- V79 (R284). -/
theorem test_V79 : endsIn (step { start 0x0300 [(0x0300, 0x04), (0x0301, 0x10), (0x0010, 0xF0)] with a := 0x0F })
    [0x0F, 0x00, 0x00, 0xFF, 0x26] 0x0302 5 [(0x0010, 0xFF)] = true := by decide

/-- V80 (R284). -/
theorem test_V80 : endsIn (step { start 0x0300 [(0x0300, 0x0C), (0x0301, 0x00), (0x0302, 0x20), (0x2000, 0x01)] with a := 0x81 })
    [0x81, 0x00, 0x00, 0xFF, 0x24] 0x0303 6 [(0x2000, 0x81)] = true := by decide

/-- V81 (R285). -/
theorem test_V81 : endsIn (step { start 0x0300 [(0x0300, 0x14), (0x0301, 0x10), (0x0010, 0xFF)] with a := 0x0F })
    [0x0F, 0x00, 0x00, 0xFF, 0x24] 0x0302 5 [(0x0010, 0xF0)] = true := by decide

/-- V82 (R285). -/
theorem test_V82 : endsIn (step { start 0x0300 [(0x0300, 0x1C), (0x0301, 0x00), (0x0302, 0x20), (0x2000, 0x02)] with a := 0x01 })
    [0x01, 0x00, 0x00, 0xFF, 0x26] 0x0303 6 [(0x2000, 0x02)] = true := by decide

/-- V83 (R286). -/
theorem test_V83 : endsIn (step (start 0x0300 [(0x0300, 0x37), (0x0301, 0x10), (0x0010, 0xFF)]))
    [0x00, 0x00, 0x00, 0xFF, 0x24] 0x0302 5 [(0x0010, 0xF7)] = true := by decide

/-- V84 (R287). -/
theorem test_V84 : endsIn (step (start 0x0300 [(0x0300, 0xF7), (0x0301, 0x10), (0x0010, 0x00)]))
    [0x00, 0x00, 0x00, 0xFF, 0x24] 0x0302 5 [(0x0010, 0x80)] = true := by decide

/-- V85 (R311). -/
theorem test_V85 : endsIn (step { start 0x0300 [(0x0300, 0x1A)] with a := 0xFF })
    [0x00, 0x00, 0x00, 0xFF, 0x26] 0x0301 2 [] = true := by decide

/-- V87 (R311). -/
theorem test_V87 : endsIn (step { start 0x0300 [(0x0300, 0xFE), (0x0301, 0xFF), (0x0302, 0x20), (0x2100, 0xFF)] with x := 0x01 })
    [0x00, 0x01, 0x00, 0xFF, 0x26] 0x0303 7 [(0x2100, 0x00)] = true := by decide

/-- V88 (R312). -/
theorem test_V88 : endsIn (step (start 0x0300 [(0x0300, 0xC6), (0x0301, 0x10), (0x0010, 0x01)]))
    [0x00, 0x00, 0x00, 0xFF, 0x26] 0x0302 5 [(0x0010, 0x00)] = true := by decide

/-- V89 (R312). -/
theorem test_V89 : endsIn (step (start 0x0300 [(0x0300, 0x3A)]))
    [0xFF, 0x00, 0x00, 0xFF, 0xA4] 0x0301 2 [] = true := by decide

/-- V90 (R313). -/
theorem test_V90 : endsIn (step { start 0x0300 [(0x0300, 0xE8)] with x := 0xFF })
    [0x00, 0x00, 0x00, 0xFF, 0x26] 0x0301 2 [] = true := by decide

/-- V91 (R314). -/
theorem test_V91 : endsIn (step { start 0x0300 [(0x0300, 0xC8)] with y := 0x7F })
    [0x00, 0x00, 0x80, 0xFF, 0xA4] 0x0301 2 [] = true := by decide

/-- V92 (R315). -/
theorem test_V92 : endsIn (step (start 0x0300 [(0x0300, 0xCA)]))
    [0x00, 0xFF, 0x00, 0xFF, 0xA4] 0x0301 2 [] = true := by decide

/-- V93 (R316). -/
theorem test_V93 : endsIn (step { start 0x0300 [(0x0300, 0x88)] with y := 0x01 })
    [0x00, 0x00, 0x00, 0xFF, 0x26] 0x0301 2 [] = true := by decide

/-- V94 (R317). -/
theorem test_V94 : endsIn (step { start 0x0300 [(0x0300, 0x0A)] with a := 0xC1 })
    [0x82, 0x00, 0x00, 0xFF, 0xA5] 0x0301 2 [] = true := by decide

/-- V96 (R317). -/
theorem test_V96 : endsIn (step { start 0x0300 [(0x0300, 0x1E), (0x0301, 0xFF), (0x0302, 0x20), (0x2100, 0x40)] with x := 0x01 })
    [0x00, 0x01, 0x00, 0xFF, 0xA4] 0x0303 7 [(0x2100, 0x80)] = true := by decide

/-- V97 (R318). -/
theorem test_V97 : endsIn (step { start 0x0300 [(0x0300, 0x4A)] with a := 0x01 })
    [0x00, 0x00, 0x00, 0xFF, 0x27] 0x0301 2 [] = true := by decide

/-- V98 (R318). -/
theorem test_V98 : endsIn (step { start 0x0300 [(0x0300, 0x4A)] with a := 0x03 })
    [0x01, 0x00, 0x00, 0xFF, 0x25] 0x0301 2 [] = true := by decide

/-- V99 (R319). -/
theorem test_V99 : endsIn (step { start 0x0300 [(0x0300, 0x2A)] with a := 0x40, p := 0x25 })
    [0x81, 0x00, 0x00, 0xFF, 0xA4] 0x0301 2 [] = true := by decide

/-- V100 (R319). -/
theorem test_V100 : endsIn (step { start 0x0300 [(0x0300, 0x2A)] with a := 0x80 })
    [0x00, 0x00, 0x00, 0xFF, 0x27] 0x0301 2 [] = true := by decide

/-- V101 (R320). -/
theorem test_V101 : endsIn (step { start 0x0300 [(0x0300, 0x6A)] with a := 0x02, p := 0x25 })
    [0x81, 0x00, 0x00, 0xFF, 0xA4] 0x0301 2 [] = true := by decide

/-- V102 (R320). -/
theorem test_V102 : endsIn (step { start 0x0300 [(0x0300, 0x6A)] with a := 0x01 })
    [0x00, 0x00, 0x00, 0xFF, 0x27] 0x0301 2 [] = true := by decide

/-- V104 (R340). -/
theorem test_V104 : endsIn (step (start 0x0300 [(0x0300, 0x6C), (0x0301, 0xFF), (0x0302, 0x12), (0x1200, 0x99), (0x12FF, 0x00), (0x1300, 0x50)]))
    [0x00, 0x00, 0x00, 0xFF, 0x24] 0x5000 6 [] = true := by decide

/-- V105 (R340). -/
theorem test_V105 : endsIn (step { start 0x0400 [(0x0400, 0x7C), (0x0401, 0x00), (0x0402, 0x03), (0x0302, 0x00), (0x0303, 0x40)] with x := 0x02 })
    [0x00, 0x02, 0x00, 0xFF, 0x24] 0x4000 6 [] = true := by decide

/-- V106 (R341). -/
theorem test_V106 : endsIn (step (start 0x0800 [(0x0800, 0x20), (0x0801, 0x34), (0x0802, 0x12)]))
    [0x00, 0x00, 0x00, 0xFD, 0x24] 0x1234 6 [(0x01FF, 0x08), (0x01FE, 0x02)] = true := by decide

/-- V107 (R341). -/
theorem test_V107 : endsIn (step { start 0x0800 [(0x0800, 0x20), (0x0801, 0x34), (0x0802, 0x12)] with sp := 0x00 })
    [0x00, 0x00, 0x00, 0xFE, 0x24] 0x1234 6 [(0x0100, 0x08), (0x01FF, 0x02)] = true := by decide

/-- V108 (R342). -/
theorem test_V108 : endsIn (step { start 0x0300 [(0x0300, 0x60), (0x01FE, 0x02), (0x01FF, 0x08)] with sp := 0xFD })
    [0x00, 0x00, 0x00, 0xFF, 0x24] 0x0803 6 [] = true := by decide

/-- V109 (R342). -/
theorem test_V109 : endsIn (step { start 0x0300 [(0x0300, 0x60), (0x01FE, 0xFF), (0x01FF, 0xFF)] with sp := 0xFD })
    [0x00, 0x00, 0x00, 0xFF, 0x24] 0x0000 6 [] = true := by decide

/-- V110 (R351). -/
theorem test_V110 : endsIn (step (start 0x02FE [(0x02FE, 0x10), (0x02FF, 0x10)]))
    [0x00, 0x00, 0x00, 0xFF, 0x24] 0x0310 3 [] = true := by decide

/-- V111 (R352). -/
theorem test_V111 : endsIn (step { start 0x0400 [(0x0400, 0x30), (0x0401, 0x80)] with p := 0xA4 })
    [0x00, 0x00, 0x00, 0xFF, 0xA4] 0x0382 4 [] = true := by decide

/-- V112 (R353). -/
theorem test_V112 : endsIn (step { start 0x0300 [(0x0300, 0x50), (0x0301, 0x05)] with p := 0x64 })
    [0x00, 0x00, 0x00, 0xFF, 0x64] 0x0302 2 [] = true := by decide

/-- V113 (R354). -/
theorem test_V113 : endsIn (step { start 0x0300 [(0x0300, 0x70), (0x0301, 0x7F)] with p := 0x64 })
    [0x00, 0x00, 0x00, 0xFF, 0x64] 0x0381 3 [] = true := by decide

/-- V114 (R355). -/
theorem test_V114 : endsIn (step (start 0x0300 [(0x0300, 0x90), (0x0301, 0xFE)]))
    [0x00, 0x00, 0x00, 0xFF, 0x24] 0x0300 3 [] = true := by decide

/-- V115 (R356). -/
theorem test_V115 : endsIn (step { start 0x2006 [(0x2006, 0xB0), (0x2007, 0x10)] with p := 0x25 })
    [0x00, 0x00, 0x00, 0xFF, 0x25] 0x2018 3 [] = true := by decide

/-- V116 (R357). -/
theorem test_V116 : endsIn (step (start 0x0305 [(0x0305, 0xD0), (0x0306, 0xF9)]))
    [0x00, 0x00, 0x00, 0xFF, 0x24] 0x0300 3 [] = true := by decide

/-- V117 (R358). -/
theorem test_V117 : endsIn (step (start 0x0300 [(0x0300, 0xF0), (0x0301, 0x10)]))
    [0x00, 0x00, 0x00, 0xFF, 0x24] 0x0302 2 [] = true := by decide

/-- V118 (R358). -/
theorem test_V118 : endsIn (step { start 0x0300 [(0x0300, 0xF0), (0x0301, 0x00)] with p := 0x26 })
    [0x00, 0x00, 0x00, 0xFF, 0x26] 0x0302 3 [] = true := by decide

/-- V120 (R359). -/
theorem test_V120 : endsIn (step (start 0x03F0 [(0x03F0, 0x80), (0x03F1, 0x7F)]))
    [0x00, 0x00, 0x00, 0xFF, 0x24] 0x0471 4 [] = true := by decide

/-- V121 (R360). -/
theorem test_V121 : endsIn (step (start 0x0300 [(0x0300, 0x0F), (0x0301, 0x10), (0x0302, 0xFD), (0x0010, 0x00)]))
    [0x00, 0x00, 0x00, 0xFF, 0x24] 0x0300 6 [] = true := by decide

/-- V122 (R360). -/
theorem test_V122 : endsIn (step (start 0x0300 [(0x0300, 0x0F), (0x0301, 0x10), (0x0302, 0xFD), (0x0010, 0x01)]))
    [0x00, 0x00, 0x00, 0xFF, 0x24] 0x0303 5 [] = true := by decide

/-- V123 (R361). -/
theorem test_V123 : endsIn (step (start 0x0300 [(0x0300, 0xFF), (0x0301, 0x10), (0x0302, 0x02), (0x0010, 0x80)]))
    [0x00, 0x00, 0x00, 0xFF, 0x24] 0x0305 6 [] = true := by decide

/-- V124 (R344). -/
theorem test_V124 : endsIn (step { start 0x0300 [(0x0300, 0x40), (0x01FD, 0x3D), (0x01FE, 0x02), (0x01FF, 0x03)] with sp := 0xFC })
    [0x00, 0x00, 0x00, 0xFF, 0x2D] 0x0302 6 [] = true := by decide

/-- V125 (R380). -/
theorem test_V125 : endsIn (step { start 0x0300 [(0x0300, 0x18)] with p := 0x25 })
    [0x00, 0x00, 0x00, 0xFF, 0x24] 0x0301 2 [] = true := by decide

/-- V126 (R381). -/
theorem test_V126 : endsIn (step (start 0x0300 [(0x0300, 0x38)]))
    [0x00, 0x00, 0x00, 0xFF, 0x25] 0x0301 2 [] = true := by decide

/-- V127 (R382). -/
theorem test_V127 : endsIn (step (start 0x0300 [(0x0300, 0x58)]))
    [0x00, 0x00, 0x00, 0xFF, 0x20] 0x0301 2 [] = true := by decide

/-- V128 (R383). -/
theorem test_V128 : endsIn (step { start 0x0300 [(0x0300, 0x78)] with p := 0x20 })
    [0x00, 0x00, 0x00, 0xFF, 0x24] 0x0301 2 [] = true := by decide

/-- V129 (R384). -/
theorem test_V129 : endsIn (step { start 0x0300 [(0x0300, 0xD8)] with p := 0x2C })
    [0x00, 0x00, 0x00, 0xFF, 0x24] 0x0301 2 [] = true := by decide

/-- V130 (R385). -/
theorem test_V130 : endsIn (step (start 0x0300 [(0x0300, 0xF8)]))
    [0x00, 0x00, 0x00, 0xFF, 0x2C] 0x0301 2 [] = true := by decide

/-- V131 (R386). -/
theorem test_V131 : endsIn (step { start 0x0300 [(0x0300, 0xB8)] with p := 0x64 })
    [0x00, 0x00, 0x00, 0xFF, 0x24] 0x0301 2 [] = true := by decide

/-- V132 (R387). -/
theorem test_V132 : endsIn (step (start 0x0300 [(0x0300, 0xEA)]))
    [0x00, 0x00, 0x00, 0xFF, 0x24] 0x0301 2 [] = true := by decide

/-- V133 (R395). -/
theorem test_V133 : endsIn (step (start 0x0300 [(0x0300, 0x5C), (0x0301, 0x34), (0x0302, 0x12)]))
    [0x00, 0x00, 0x00, 0xFF, 0x24] 0x0303 8 [] = true := by decide

/-- V134 (R395). -/
theorem test_V134 : endsIn (step (start 0x0300 [(0x0300, 0x02), (0x0301, 0xFF)]))
    [0x00, 0x00, 0x00, 0xFF, 0x24] 0x0302 2 [] = true := by decide

/-- V135 (R395). -/
theorem test_V135 : endsIn (step (start 0x0300 [(0x0300, 0x03)]))
    [0x00, 0x00, 0x00, 0xFF, 0x24] 0x0301 1 [] = true := by decide

/-! ## Scenarios -/

/-- The next state, or the reset state where there is none. -/
def nextOf (r : Result) : State :=
  match r with
  | .next t => t
  | _ => State.reset

/-- Does the outcome have a next state? -/
def isNext (r : Result) : Bool :=
  match r with
  | .next _ => true
  | _ => false

theorem exists_of_isNext (r : Result) (h : isNext r = true) : ∃ t, r = .next t := by
  cases r with
  | next t => exact ⟨t, rfl⟩
  | fault f => cases h
  | refused f => cases h

theorem next_nextOf (r : Result) (h : isNext r = true) : r = .next (nextOf r) := by
  cases r with
  | next t => rfl
  | fault f => cases h
  | refused f => cases h

/-- The fault of an outcome. -/
def faultOf (r : Result) : Option Fault :=
  match r with
  | .fault f => some f
  | _ => none

/-- The refusal of an outcome. -/
def refusalOf (r : Result) : Option Refusal :=
  match r with
  | .refused f => some f
  | _ => none

theorem eq_fault_of (r : Result) (f : Fault) (h : faultOf r = some f) : r = .fault f := by
  cases r with
  | next t => cases h
  | fault g => cases h; rfl
  | refused g => cases h

theorem eq_refused_of (r : Result) (f : Refusal) (h : refusalOf r = some f) : r = .refused f := by
  cases r with
  | next t => cases h
  | fault g => cases h
  | refused g => cases h; rfl

/-- The LC state after CPU reads of these switches, from memory reset. -/
def afterReads (l : List Word) : LC := l.foldl (fun lc a => lc.access a true) LC.reset

/-- T10: one read, two reads, one write of each command with each bank, and of an address outside the page. -/
theorem test_soft_switches :
    afterReads [0xC080] = ⟨true, false, .bank2, false⟩ ∧ afterReads [0xC081] = ⟨false, false, .bank2, true⟩ ∧
    afterReads [0xC082] = ⟨false, false, .bank2, false⟩ ∧ afterReads [0xC087] = ⟨true, false, .bank2, true⟩ ∧
    afterReads [0xC081, 0xC081] = ⟨false, true, .bank2, true⟩ ∧ afterReads [0xC08F, 0xC08F] = ⟨true, true, .bank1, true⟩ ∧
    LC.reset.access 0xC08D false = ⟨false, false, .bank1, false⟩ ∧ LC.reset.access 0xC083 false = ⟨true, false, .bank2, false⟩ ∧
    afterReads [0xC090] = LC.reset ∧ afterReads [0xC07F] = LC.reset := by decide

/-- T11 S1 to S7, and T3 step 3: the two-read qualification. -/
theorem test_switch_sequences :
    afterReads [0xC083, 0xC08B] = ⟨true, true, .bank1, true⟩ ∧ afterReads [0xC081, 0xC083] = ⟨true, true, .bank2, true⟩ ∧
    afterReads [0xC08B, 0xC080, 0xC08B] = ⟨true, false, .bank1, true⟩ ∧
    afterReads [0xC08B, 0xC08B, 0xC08A] = ⟨false, false, .bank1, false⟩ ∧
    (afterReads [0xC08B, 0xC08B]).access 0xC089 false = ⟨false, true, .bank1, false⟩ ∧
    afterReads [0xC08B, 0x1234, 0xC08B] = ⟨true, true, .bank1, true⟩ ∧
    ((afterReads [0xC08B]).access 0xC08B false).access 0xC08B true = ⟨true, false, .bank1, true⟩ := by decide

/-- T12 S8: the dummy read of LDA $C0F0,X reads switch 0xC083. -/
theorem test_S8_dummy_read_switches :
    let t := nextOf (step { start 0x0300 [(0x0300, 0xBD), (0x0301, 0xF0), (0x0302, 0xC0), (0xC183, 0x66)] with x := 0x93 })
    t.a = 0x66 ∧ t.mem.lc = ⟨true, false, .bank2, true⟩ ∧ t.cycles = 5 ∧
    t.bus = [.read 0x0300 0xBD, .read 0x0301 0xF0, .read 0x0302 0xC0, .read 0xC083 0x00, .read 0xC183 0x66] := by decide

/-- T12 S9 and S10: INC $C083 reads, reads its last byte again, and writes. -/
theorem test_S9_S10_rmw_switches :
    let s := start 0x0300 [(0x0300, 0xEE), (0x0301, 0x83), (0x0302, 0xC0)]
    let t := nextOf (step s)
    let u := nextOf (step { s with mem := { s.mem with lc := ⟨false, false, .bank1, true⟩ } })
    t.mem.lc = ⟨true, false, .bank2, false⟩ ∧ u.mem.lc = ⟨true, true, .bank2, false⟩ ∧ t.cycles = 6 ∧
    t.bus = [.read 0x0300 0xEE, .read 0x0301 0x83, .read 0x0302 0xC0, .read 0xC083 0x00, .read 0x0302 0xC0,
      .write 0xC083 0x01] := by decide

/-- T12 S11: a switch read returns the RAM byte. -/
theorem test_S11_switch_read_returns_ram :
    let t := nextOf (step (start 0x0300 [(0x0300, 0xAD), (0x0301, 0x8B), (0x0302, 0xC0), (0xC08B, 0x3C)]))
    t.a = 0x3C ∧ t.mem.lc = ⟨true, false, .bank1, true⟩ := by decide

/-- A ROM image that shows these bytes, addresses as the read bus names them. -/
def romOf (l : List (Nat × Byte)) : Memory := placeAll (l.map (fun e => (e.1 - 0xD000, e.2))) []

/-- T13 S12, S13 and S14: the vector through the read bus; A stays. -/
theorem test_cpu_reset :
    let s := { start 0x0300 [(0xFFFC, 0x34), (0xFFFD, 0x12)] with a := 0x5A, p := 0xC3, sp := 0x10, execState := .stopped }
    let rom := { s with mem := { s.mem with rom := some (romOf [(0xFFFC, 0x00), (0xFFFD, 0xF8)]) } }
    let t := rom.cpuReset
    (t.pc, t.a, t.p, t.sp, t.execState) = (0xF800, 0x5A, 0x24, 0xFF, .running) ∧
    t.bus = [.read 0xFFFC 0x00, .read 0xFFFD 0xF8] ∧
    { rom with mem := { rom.mem with lc := ⟨true, false, .bank1, true⟩ } }.cpuReset.pc = 0x1234 ∧
    s.cpuReset.pc = 0x0000 := by decide

/-- T14, step 1: BRK through the ROM vector. -/
theorem test_T14_brk :
    let s := { start 0x0300 [(0x0300, 0x00), (0x0301, 0xEA)] with p := 0x2D }
    let t := nextOf (step { s with mem := { s.mem with rom := some (romOf [(0xFFFE, 0x40), (0xFFFF, 0xFA)]) } })
    t.pc = 0xFA40 ∧ t.sp = 0xFC ∧ t.p = 0x25 ∧ t.cycles = 7 ∧ t.trace = [⟨0x0300, 0xFA40, 1⟩] ∧
    t.bus = [.read 0x0300 0x00, .write 0x01FF 0x03, .write 0x01FE 0x02, .write 0x01FD 0x3D, .read 0xFFFE 0x40,
      .read 0xFFFF 0xFA] := by decide

/-- T15 S16 and S17: WAI and STP, and the step after them. -/
theorem test_wai_and_stp :
    let w := nextOf (step (start 0x0300 [(0x0300, 0xCB), (0x0301, 0xEA)]))
    let s := nextOf (step (start 0x0300 [(0x0300, 0xDB), (0x0301, 0xEA)]))
    (w.cycles, w.execState, w.pc) = (3, .waiting, 0x0301) ∧ (s.cycles, s.execState, s.pc) = (3, .stopped, 0x0301) ∧
    nextOf (step w) = { w with cycles := 0, bus := [] } ∧ isNext (step w) = true ∧ (run 2 s).cycles = 0 := by decide

/-- T15 S19 and S20: the filter and the capacity. -/
theorem test_trace_filter_and_capacity :
    recordIn 2 0xF900 0xF800 [⟨1, 2, 1⟩] = [⟨1, 2, 1⟩] ∧ recordIn 2 0xF800 0x0300 [] = [⟨0xF800, 0x0300, 1⟩] ∧
    recordIn 2 5 6 [⟨3, 4, 7⟩, ⟨1, 2, 1⟩] = [⟨5, 6, 1⟩, ⟨3, 4, 7⟩] ∧ recordIn 2 3 4 [⟨3, 4, 7⟩, ⟨1, 2, 1⟩] = [⟨3, 4, 8⟩, ⟨1, 2, 1⟩] := by
  decide

/-- V136 and V137: 0x07 without BITOPS, and 0x02 under UNDOC_POLICY = refuse. -/
theorem test_V136_V137_parameters :
    let s := start 0x0300 [(0x0300, 0x07), (0x0010, 0xFF)]
    let t := nextOf (step { s with cfg := { s.cfg with bitops := .absent } })
    let r := start 0x0300 [(0x0300, 0x02), (0x0301, 0xFF)]
    let r' := { r with cfg := { r.cfg with undocPolicy := .refuse } }
    (t.pc, t.cycles) = (0x0301, 1) ∧ Memory.read t.mem.ram 0x10 = 0xFF ∧ refusalOf (step r') = some (.undocumented 0x02 0x0300) ∧
    refusalOf (step (r'.after (step r'))) = some (.undocumented 0x02 0x0300) := by decide

/-- T4 W4, W5, W5b and W5c, with bytes 0xA5 and 0xB6 of ROM at 0xD000 and 0xE000. -/
theorem test_T4_round_trip :
    let m : Banked := { ram := [], lc2 := [], rom := some (romOf [(0xD000, 0xA5), (0xE000, 0xB6)]), lc := LC.reset }
    let w4 := writeByte m.writeBus m 0xD000 0x5A
    let m5 := { m with lc := afterReads [0xC081, 0xC081] }
    let w5 := writeByte m5.writeBus m5 0xD000 0x5A
    let m6 := { m with lc := afterReads [0xC089, 0xC089] }
    let w6 := writeByte m6.writeBus m6 0xE000 0x77
    w4 = m ∧ readByte w4.readBus w4 0xD000 = 0xA5 ∧ w5.lc2 = [(0, 0x5A)] ∧ readByte w5.readBus w5 0xD000 = 0xA5 ∧
    { w5 with lc := { w5.lc with readEnabled := true } }.readMap 0xD000 = 0x5A ∧ w6.ram = [(0xE000, 0x77)] ∧
    readByte w6.readBus w6 0xE000 = 0xB6 := by decide

/-- T5: the helpers wrap at 0xFFFF. -/
theorem test_T5_wrap :
    let m : Banked := { ram := [(0, 0x12), (1, 0x56)], lc2 := [], rom := some (romOf [(0xFFFF, 0x34)]), lc := LC.reset }
    read16LE m.readBus m 0xFFFF = 0x1234 ∧ read24LE m.readBus m 0xFFFF = 0x561234 ∧
    (write16LE m.writeBus m 0xFFFF 0xBEEF).ram = [(0, 0xBE), (1, 0x56)] := by decide

/-- The memory of T6. -/
def trapCells : List (Nat × Byte) :=
  [(0x2000, 0x20), (0x2001, 0x00), (0x2002, 0xBF), (0x2003, 0x05), (0x2004, 0x00), (0x2005, 0x30)]

/-- T6: the descriptor, and the return with status 0x27; the context's answer is given here, since it is a free value (log 4). -/
theorem test_T6_trap :
    let s := fetchBytes 3 (start 0x2000 trapCells)
    let d := readDescriptor 0x2000 s
    let t := osReturn 0x2000 ⟨0x27, [], [], s.mem.lc⟩ d.2
    d.1 = ⟨0x05, 0x3000⟩ ∧ (t.a, t.p, t.pc, t.sp) = (0x27, 0x25, 0x2006, 0xFF) ∧ t.trace = [⟨0x2000, 0x2006, 1⟩] ∧
    t.mem = s.mem ∧ t.bus.length = 6 := by decide

/-- T6 with no context: the fault, and the state that stands. -/
theorem test_T6_no_context :
    let s := start 0x2000 trapCells
    faultOf (step s) = some .noMLIContext ∧ s.after (step s) = { s with fault := some .noMLIContext } := by decide

/-- T8: a buffer of 4096 bytes. -/
theorem test_T8_size_mismatch : State.reset.loadROM (List.replicate 4096 0x00) = .error .sizeMismatch := by
  have h : (List.replicate 4096 (0x00 : Byte)).length ≠ romSize := by rw [List.length_replicate]; decide
  simp only [State.loadROM, Banked.loadROM, if_neg h]

/-! ## Witnesses: values that meet the hypotheses of the statements -/

/-- A JSR to 0x1234, a store to page 2, a BRK, a branch. -/
def jsrState : State := start 0x0800 [(0x0800, 0x20), (0x0801, 0x34), (0x0802, 0x12)]

/-- LDA $1234,X at 0x0300. -/
def ldaState : State := { start 0x0300 [(0x0300, 0xBD), (0x0301, 0x34), (0x0302, 0x12)] with x := 0x01 }

/-- The state of T6 with no context. -/
def trapState : State := start 0x2000 trapCells

theorem trapState_atTrap : trapState.AtTrap := ⟨0xBF00, by decide, by decide⟩

theorem not_atTrap_of (s : State) (h : instrAt s = .lda (.mem (.absx 0x1234))) : ¬ s.AtTrap := by
  rintro ⟨w, hw, -⟩
  rw [h] at hw; cases hw

theorem ready_of (s : State) (h : (s.execState, s.fault, s.refusal, s.booted) = (.running, none, none, true)) : s.Ready := by
  simp only [Prod.mk.injEq] at h; exact h

theorem witness_DecodeOfEncode : WellFormed .present (.lda (.mem (.izp 0xFF))) ∧ WellFormed .absent (.nopU1 0x07) := by decide

theorem witness_EncodeOfDecode : decode .absent [0x5C, 0x34, 0x12, 0xEA] = .ok (.nopU3 0x5C 0x1234, [0xEA]) := by rfl

theorem witness_EveryOpcodeByteDecodes : (0x0F : Byte) &&& 0x07 = 0x07 := by decide

theorem witness_StepRunsTheDecodedInstruction : ldaState.Ready ∧
    decode ldaState.cfg.bitops [ldaState.mem.readMap ldaState.pc, ldaState.mem.readMap (ldaState.pc + 1),
      ldaState.mem.readMap (ldaState.pc + 2)] = .ok (.lda (.mem (.absx 0x1234)), []) := ⟨ready_of _ (by decide), by rfl⟩

/-- An instruction all of whose bytes its step fetches before its own rule: neither BRK nor a bit branch. -/
theorem witness_FetchedIsLength : (∀ ss, Instr.tax ≠ .brk ss) ∧ ∀ n nn rr, Instr.tax ≠ bbrAt n nn rr ∧ Instr.tax ≠ bbsAt n nn rr := by
  refine ⟨fun _ => by simp, fun n nn rr => ?_⟩
  fin_cases n <;> simp [bbrAt, bbsAt]

/-- Fetches of three switch addresses (0xC08B, 0xC08C, 0xC08D; 20_memory.md R99), and fetches that wrap past 0xFFFF. -/
theorem witness_FetchesReadTheDecodedBytes :
    (fetchBytes 3 (start 0xC08B [])).mem.lc = ⟨false, false, .bank1, true⟩ ∧ (fetchBytes 3 (start 0xFFFE [])).pc = 0x0001 ∧
    fetchBytes 0 ldaState = ldaState := by decide

theorem witness_StepKeepsTheInvariant : ldaState.Inv ∧ ∃ t, step ldaState = .next t :=
  ⟨by decide, exists_of_isNext _ (by decide)⟩

theorem witness_HostCallsKeepTheInvariant : ldaState.Inv ∧ ∃ t, ldaState.loadROM (List.replicate 12288 0x00) = .ok t := by
  refine ⟨by decide, ?_⟩
  have h : (List.replicate 12288 (0x00 : Byte)).length = romSize := by rw [List.length_replicate]; rfl
  refine ⟨{ ldaState with mem := { ldaState.mem with rom := some (Memory.writeAll [] 0 (List.replicate 12288 0x00)) } }, ?_⟩
  simp only [State.loadROM, Banked.loadROM, if_pos h]

theorem witness_StepKeepsRomAndConfiguration : ∃ t, step ldaState = .next t := exists_of_isNext _ (by decide)

theorem witness_WaitingAndStoppedAreTerminal :
    let w := { ldaState with execState := .waiting }
    let s := { ldaState with execState := .stopped }
    (w.fault = none ∧ w.refusal = none ∧ w.booted = true ∧ w.execState ≠ .running) ∧
    (s.fault = none ∧ s.refusal = none ∧ s.booted = true ∧ s.execState ≠ .running) := by decide

theorem witness_NoStepAfterFaultRefusalOrBeforeReset :
    let f := { ldaState with fault := some .noMLIContext }
    let r := { ldaState with refusal := some (.undocumented 0x02 0x0300) }
    let b := State.construct Config.default ⟨0, 0, 0, 0, 0, 0, [], [], LC.reset⟩
    f.fault = some .noMLIContext ∧ (r.fault = none ∧ r.refusal = some (.undocumented 0x02 0x0300)) ∧
    (b.fault = none ∧ b.refusal = none ∧ b.booted = false) := by decide

theorem witness_OnlyATrappedJsrFaults : trapState.fault = none ∧ step trapState = .fault .noMLIContext :=
  ⟨by decide, eq_fault_of _ _ (by decide)⟩

theorem witness_OnlyWaiAndStpLeaveRunning :
    let w := start 0x0300 [(0x0300, 0xCB)]
    let p := start 0x0300 [(0x0300, 0xDB)]
    let x := { ldaState with execState := .waiting }
    (∃ t, step w = .next t ∧ w.execState = .running ∧ t.execState ≠ .running) ∧
    (∃ t, step p = .next t ∧ p.execState = .running ∧ t.execState ≠ .running) ∧
    ∃ t, step x = .next t ∧ x.execState ≠ .running :=
  ⟨⟨_, next_nextOf _ (by decide), by decide⟩, ⟨_, next_nextOf _ (by decide), by decide⟩,
    ⟨_, next_nextOf _ (by decide), by decide⟩⟩

/-- A trace and a capacity changed: the states agree in all else, and each kind of ending occurs. -/
theorem witness_TraceNeverAffectsExecution :
    let other := fun s : State => { s with trace := [⟨1, 2, 3⟩], cfg := { s.cfg with traceCap := 1 }, cycles := 9 }
    let r := start 0x0300 [(0x0300, 0x02)]
    let r' := { r with cfg := { r.cfg with undocPolicy := .refuse } }
    (∀ s ∈ [jsrState, trapState, r'], s.clearOutputs.withoutTrace = (other s).clearOutputs.withoutTrace) ∧
    isNext (step jsrState) = true ∧ step trapState = .fault .noMLIContext ∧
    step r' = .refused (.undocumented 0x02 0x0300) :=
  ⟨by decide, by decide, eq_fault_of _ _ (by decide), eq_refused_of _ _ (by decide)⟩

theorem witness_MemoryChangesOnlyThroughBusEvents : (∃ t, step ldaState = .next t) ∧ ¬ ldaState.AtTrap :=
  ⟨exists_of_isNext _ (by decide), not_atTrap_of _ (by decide)⟩

theorem witness_LanguageCardFollowsSwitchAccesses :
    ∃ t, step ldaState = .next t ∧ ¬ ldaState.AtTrap ∧ ∀ e ∈ t.bus, e.addr &&& 0xFFF0 ≠ 0xC080 :=
  ⟨_, next_nextOf _ (by decide), not_atTrap_of _ (by decide), by decide⟩

theorem witness_EveryInstructionCompletes :
    let c := { ldaState with cfg := { ldaState.cfg with ctx := true } }
    let n := { ldaState with cfg := { ldaState.cfg with mliTrapAddr := none } }
    (c.cfg.undocPolicy = .nop ∧ c.cfg.ctx = true) ∧ (n.cfg.undocPolicy = .nop ∧ n.cfg.mliTrapAddr = none) := by decide

/-- A memory model with every store in use; `lc` is a parameter. -/
def bankedOf (lc : LC) : Banked :=
  { ram := [(0xCFFF, 0x11), (0xD000, 0x22), (0xE000, 0x33), (0xFFFF, 0x44)], lc2 := [(0, 0x55), (0xFFF, 0x66)]
    rom := some (romOf [(0xD000, 0x77), (0xFFFF, 0x88)]), lc := lc }

/-- Each clause at the ends of its windows. -/
theorem witness_ReadBusFollowsLanguageCard :
    let off := bankedOf ⟨false, true, .bank2, false⟩
    let b1 := bankedOf ⟨true, false, .bank1, false⟩
    let b2 := bankedOf ⟨true, false, .bank2, false⟩
    (bank 0x0000 ≤ 12 ∧ bank 0xCFFF ≤ 12 ∧ off.readMap 0xCFFF = 0x11) ∧
    (13 ≤ bank 0xD000 ∧ off.readMap 0xD000 = 0x77 ∧ off.readMap 0xFFFF = 0x88 ∧ { off with rom := none }.readMap 0xFFFF = 0x00) ∧
    (b2.readMap 0xD000 = 0x55 ∧ b2.readMap 0xDFFF = 0x66 ∧ b2.readMap 0xE000 = 0x33) ∧
    (b1.readMap 0xD000 = 0x22 ∧ b1.readMap 0xFFFF = 0x44) := by decide

theorem witness_WriteBusFollowsLanguageCard :
    let off := bankedOf ⟨true, false, .bank2, false⟩
    let b1 := bankedOf ⟨false, true, .bank1, false⟩
    let b2 := bankedOf ⟨false, true, .bank2, false⟩
    (off.wf = true ∧ b1.wf = true ∧ b2.wf = true) ∧ (off.writeMap 0xCFFF 0x99).ram.length = 4 ∧
    (13 ≤ bank 0xD000 ∧ off.writeMap 0xD000 0x99 = off) ∧
    (Memory.read (b1.writeMap 0xD000 0x99).ram 0xD000 = 0x99 ∧ Memory.read (b2.writeMap 0xE000 0x99).ram 0xE000 = 0x99) ∧
    (bank 0xDFFF = 13 ∧ Memory.read (b2.writeMap 0xDFFF 0x99).lc2 0xFFF = 0x99) := by decide

theorem witness_WriteThenReadRoundTrip :
    let both := bankedOf ⟨true, true, .bank2, false⟩
    let rdOff := bankedOf ⟨false, true, .bank1, false⟩
    let wrOff := bankedOf ⟨true, false, .bank1, false⟩
    (both.wf = true ∧ rdOff.wf = true ∧ wrOff.wf = true) ∧
    ((both.writeMap 0xCFFF 0x99).readMap 0xCFFF = 0x99 ∧ (both.writeMap 0xD000 0x99).readMap 0xD000 = 0x99) ∧
    (rdOff.writeMap 0xD000 0x99).readMap 0xD000 = 0x77 ∧ wrOff.writeMap 0xFFFF 0x99 = wrOff ∧
    { rdOff.writeMap 0xD000 0x99 with lc := { rdOff.lc with readEnabled := true } }.readMap 0xD000 = 0x99 := by decide

theorem witness_SoftSwitchStateMachine :
    ((0xC07F : Word) &&& 0xFFF0 ≠ 0xC080 ∧ (0xC090 : Word) &&& 0xFFF0 ≠ 0xC080) ∧
    ((0xC080 : Word) &&& 0xFFF0 = 0xC080 ∧ (0xC08F : Word) &&& 0xFFF0 = 0xC080) ∧
    (0xC08F : Word).getLsbD 0 = true ∧ (0xC080 : Word).getLsbD 0 = false := by decide

theorem witness_TwoCandidateReadsEnableWrite :
    isSwitch 0xC081 = true ∧ isSwitch 0xC08F = true ∧ isCandidate 0xC08F = true ∧ isCandidate 0xC081 = true ∧
    isSwitch 0xC080 = true ∧ isCandidate 0xC080 = false ∧
    ∀ e ∈ [BusEvent.read 0xC07F 0x00, BusEvent.write 0xC090 0x01], isSwitch e.addr = false := by decide

theorem witness_BusViewsGiveTheMaps :
    (bankedOf LC.reset).lc = ({ bankedOf LC.reset with ram := [], rom := none } : Banked).lc := by decide

theorem witness_MultiByteHelpersWrap :
    (bankedOf LC.reset).wf = true ∧ bank 0xCFFE ≤ 12 ∧ bank (0xCFFE + 1) ≤ 12 ∧
    (bank 0xCFFD ≤ 12 ∧ bank (0xCFFD + 1) ≤ 12 ∧ bank (0xCFFD + 2) ≤ 12) := by decide

/-- The places a written byte goes: ram (0xCFFF; 0xFFFF with LC write enabled), lc2 (0xD000 and 0xDFFF), nowhere (0xD000 and
0xFFFF with LC write disabled). -/
theorem witness_PutsByte :
    (bank 0xCFFF ≤ 12 ∧ bank 0xFFFF = 15 ∧ (⟨false, true, .bank2, false⟩ : LC).writeEnabled = true) ∧
    (bank 0xD000 = 13 ∧ bank 0xDFFF = 13 ∧ bank 0xE000 = 14 ∧ (⟨false, true, .bank2, false⟩ : LC).bank = .bank2) ∧
    (⟨false, true, .bank1, false⟩ : LC).bank = .bank1 ∧
    (13 ≤ bank 0xD000 ∧ 13 ≤ bank 0xFFFF ∧ LC.reset.writeEnabled = false) := by decide

theorem witness_LoadRomChecksTheSize :
    (List.replicate 12288 (0x00 : Byte)).length = 12288 ∧ (List.replicate 12287 (0x00 : Byte)).length ≠ 12288 ∧
    12287 < (List.replicate 12288 (0x00 : Byte)).length := by
  simp only [List.length_replicate]; decide

theorem witness_ResetIsTheBootOfTheMachine :
    let u : Unspecified := ⟨0x1234, 0, 0, 0, 0x12, 0xFF, [(5, 0x01)], [(6, 0x02)], ⟨true, true, .bank2, true⟩⟩
    u.a = 0x00 ∧ u.x = 0x00 ∧ u.y = 0x00 := by decide

theorem witness_RunIsTheSumOfItsSteps :
    (run 1 ldaState).ending = .done ∧ (run 1 trapState).ending ≠ .done ∧ step trapState = .fault .noMLIContext ∧
    (∃ t, step ldaState = .next t) ∧
    step { ldaState with refusal := some (.undocumented 0x03 0x0300) } = .refused (.undocumented 0x03 0x0300) ∧
    step { ldaState with booted := false } = .refused .notReset ∧ ∀ op a, Refusal.notReset ≠ .undocumented op a :=
  ⟨by decide, by decide, eq_fault_of _ _ (by decide), exists_of_isNext _ (by decide), eq_refused_of _ _ (by decide),
    eq_refused_of _ _ (by decide), fun _ _ h => by cases h⟩

theorem witness_TransitionsAreRecorded :
    let s := { ldaState with trace := [⟨1, 2, 7⟩] }
    (0xF800 ≤ (0xF800 : Word).toNat ∧ 0xF800 ≤ (0xFFFF : Word).toNat) ∧
    ¬ (0xF800 ≤ (0xF7FF : Word).toNat ∧ 0xF800 ≤ (0xF800 : Word).toNat) ∧ s.trace = ⟨1, 2, 7⟩ :: [] ∧
    ∀ n es, s.trace ≠ ⟨1, 3, n⟩ :: es := by
  refine ⟨by decide, by decide, rfl, ?_⟩
  intro n es h; simp at h

theorem witness_RepeatedTransitionsCollapse :
    1 ≤ 2 ∧ filtered 0x0300 0x0300 = false ∧
    ∀ e es, [(⟨1, 2, 3⟩ : TraceEntry)] = e :: es → ¬ (e.src = 0x0300 ∧ e.dst = 0x0300) := by
  refine ⟨by decide, by decide, ?_⟩
  intro e es h; cases h; decide

/-- A store below window 13, and one to windows 13 to 15 with LC write disabled. -/
theorem witness_StoresWriteTheEffectiveAddress :
    (ldaState.mem.wf = true ∧ bank (resolve (.abs 0xCFFF) ldaState).1.addr ≤ 12) ∧
    (13 ≤ bank (resolve (.abs 0xD000) ldaState).1.addr ∧ ldaState.mem.lc.writeEnabled = false) := by decide

theorem witness_PushesGoToTheStackPage : ldaState.mem.wf = true := by decide

theorem witness_ResetAndSetMemoryBit : ldaState.mem.wf = true := by decide

theorem witness_DecimalAddOfBcd : IsBcd 0x99 ∧ IsBcd 0x00 := by unfold IsBcd; decide

theorem witness_DecimalSubtractOfBcd : IsBcd 0x00 ∧ IsBcd 0x99 := by unfold IsBcd; decide

theorem witness_JsrPushesItsReturnAddress : jsrState.cfg.mliTrapAddr ≠ some 0x1234 := by decide

/-- The first clause at an SP that does not wrap between the pulls; the second at the state the JSR left. -/
theorem witness_RtsReturnsPastTheCall : jsrState.sp ≠ 0xFE ∧
    ∃ t u : State, jsrState.mem.wf = true ∧ jsrState.cfg.mliTrapAddr ≠ some 0x1234 ∧ exec (.jsr 0x1234) jsrState = .next t ∧
      u.sp = t.sp ∧ u.mem = t.mem :=
  ⟨by decide, _, { nextOf (exec (.jsr 0x1234) jsrState) with pc := 0x9999 }, by decide, by decide,
    next_nextOf _ (by decide), rfl, rfl⟩

theorem witness_RtiReturnsFromBrk : ∃ t u : State, jsrState.mem.wf = true ∧ exec (.brk 0x00) jsrState = .next t ∧
    u.sp = t.sp ∧ u.mem = t.mem :=
  ⟨_, { nextOf (exec (.brk 0x00) jsrState) with pc := 0x9999 }, by decide, next_nextOf _ (by decide), rfl, rfl⟩

/-- Each branch taken in one of the two states and not taken in the other. -/
theorem witness_BranchesTestTheirFlag :
    let s := { ldaState with p := 0xE3 }
    (getF .n s.p = true ∧ getF .v s.p = true ∧ getF .c s.p = true ∧ getF .z s.p = true) ∧
    (getF .n ldaState.p = false ∧ getF .v ldaState.p = false ∧ getF .c ldaState.p = false ∧ getF .z ldaState.p = false) := by decide

theorem witness_BitBranchesTestTheirBit :
    let s := start 0x0301 [(0xFF, 0x81)]
    (∀ n ∈ [0, 7], (Memory.read s.mem.ram (0xFF : Byte).toNat).getLsbD n = true) ∧
    ∀ n ∈ [1, 6], (Memory.read s.mem.ram (0xFF : Byte).toNat).getLsbD n = false := by decide

theorem witness_UnassignedOpcodesFollowThePolicy :
    ldaState.cfg.undocPolicy = .nop ∧ ({ ldaState.cfg with undocPolicy := .refuse } : Config).undocPolicy = .refuse ∧
    ldaState.fault = none := by decide

theorem witness_TrappedJsrCallsTheContext :
    let s := { trapState with cfg := { trapState.cfg with ctx := true } }
    s.cfg.mliTrapAddr = some 0xBF00 ∧ s.cfg.ctx = true := by decide

theorem witness_TrapWithoutContextKeepsTheState : trapState.Ready ∧ trapState.AtTrap ∧ trapState.cfg.ctx = false :=
  ⟨ready_of _ (by decide), trapState_atTrap, by decide⟩

/-- JMP (abs,X) reports its page crossing, at the boundary of the low-byte sum (R172, R174); the other forms report none. -/
theorem test_jmp_reports_page_crossing :
    let s := { ldaState with x := 0x01 }
    (resolveTarget (.iax 0x12FF) s).1.crossed = true ∧ (resolveTarget (.iax 0x12FE) s).1.crossed = false ∧
    (resolveTarget (.ind 0x12FF) s).1.crossed = false ∧ (resolveTarget (.abs 0x12FF) s).1.crossed = false := by decide

/-- The flags that RTI and PLP take from the stack, and the flags that an instruction keeps, are some. -/
theorem witness_FlagsKept : Flag.c ≠ .b ∧ Flag.c ≠ .u ∧ Flag.i ∉ [Flag.n, Flag.z] := by decide

end Sys2Proof.Tests
end

/-! SUPPORT. Proofs of the statements about the state (10_state.md): the invariant, the frame of a step, the faults, and the
control-flow trace. -/

namespace Sys2Proof.Machine

/-! ## What every step keeps: one frame for the trapped JSR and for every other instruction -/

/-- What a step by the instruction `i` keeps, be it a trapped JSR or not: the ROM, the parameters, the stop marks, the canonical
form, U and B; it records at most one transition, and only WAI and STP change the execution state. -/
structure StepFrame (i : Instr) (s t : State) : Prop where
  wf : s.mem.wf = true → t.mem.wf = true
  rom : t.mem.rom = s.mem.rom
  p : KeepsUB s.p t.p
  execState : t.execState = s.execState ∨ (i = .wai ∧ t.execState = .waiting) ∨ (i = .stp ∧ t.execState = .stopped)
  fault : t.fault = s.fault
  refusal : t.refusal = s.refusal
  booted : t.booted = s.booted
  trace : t.trace = s.trace ∨ ∃ src dst, t.trace = recordIn s.cfg.traceCap src dst s.trace
  cfg : t.cfg = s.cfg

theorem Effect.stepFrame {i : Instr} {s t : State} (h : Effect i s t) : StepFrame i s t := by
  obtain ⟨es, hmem, -, -⟩ := h.bus
  exact ⟨fun hwf => hmem ▸ Banked.wf_replay es _ hwf, by rw [hmem, replay_rom], h.p, h.execState, h.fault, h.refusal,
    h.booted, h.trace, h.cfg⟩

/-- Moves before an instruction's own rule (its fetches) take no part in the frame. -/
theorem StepFrame.after_moves {i : Instr} {s t u : State} (hm : Moves s t) (h : StepFrame i t u) : StepFrame i s u := by
  obtain ⟨es, hmem, -, -⟩ := hm.bus
  exact ⟨fun hwf => h.wf (hmem ▸ Banked.wf_replay es _ hwf), by rw [h.rom, hmem, replay_rom], hm.p.trans h.p,
    hm.execState ▸ h.execState, h.fault.trans hm.fault, h.refusal.trans hm.refusal, h.booted.trans hm.booted,
    hm.cfg ▸ hm.trace ▸ h.trace, h.cfg.trans hm.cfg⟩

/-- A trapped JSR keeps the frame, whatever the context answers (48_os_call_trap.md R412, R413). -/
theorem exec_jsr_trapped_stepFrame (w : Word) (s t : State) (hw : s.cfg.mliTrapAddr = some w)
    (h : exec (.jsr w) s = .next t) : StepFrame (.jsr w) s t := by
  obtain ⟨m, es, r, start, rfl, -, rfl⟩ := exec_jsr_trapped w s t hw h
  have hp : KeepsUB s.p (forceU (setF .c (r.status != 0) s.p)) :=
    ⟨fun _ => getF_u_forceU _, fun hb => (getF_b_forceU _).trans (getF_b_setF _ _ _ (by decide) hb)⟩
  exact ⟨fun hwf => Banked.wf_applyTo r _ (Banked.wf_replay es _ hwf), replay_rom es _, hp, .inl rfl, rfl, rfl, rfl,
    .inr ⟨_, _, rfl⟩, rfl⟩

theorem exec_stepFrame (i : Instr) (s t : State) (h : exec i s = .next t) : StepFrame i s t := by
  by_cases htrap : ∃ w, i = .jsr w ∧ s.cfg.mliTrapAddr = some w
  · obtain ⟨w, rfl, hw⟩ := htrap
    exact exec_jsr_trapped_stepFrame w s t hw h
  · exact (exec_effect i s t (fun w hi hw => htrap ⟨w, hi, hw⟩) h).stepFrame

theorem runInstr_stepFrame (s t : State) (h : runInstr s = .next t) : StepFrame (instrAt s) s.clearOutputs t :=
  (exec_stepFrame _ _ _ h).after_moves (Moves.fetchBytes _ _)

theorem StepFrame.clearOutputs (i : Instr) (s : State) : StepFrame i s s.clearOutputs :=
  ⟨id, rfl, KeepsUB.refl _, .inl rfl, rfl, rfl, rfl, .inl rfl, rfl⟩

/-- Every step that answers a next state, in Running or not. -/
theorem step_stepFrame (s t : State) (h : step s = .next t) : StepFrame (instrAt s) s t := by
  obtain ⟨-, -, -, ⟨-, rfl⟩ | ⟨-, hrun⟩⟩ := step_next_cases s t h
  · exact StepFrame.clearOutputs _ s
  · obtain ⟨hwf, hrom, hp, hexec, hfault, hrefusal, hbooted, htrace, hcfg⟩ := runInstr_stepFrame s t hrun
    exact ⟨hwf, hrom, hp, hexec, hfault, hrefusal, hbooted, htrace, hcfg⟩

/-! ## The invariant -/

theorem State.inv_iff (s : State) : s.Inv ↔
    getF .u s.p = true ∧ getF .b s.p = false ∧ s.mem.wf = true ∧ 1 ≤ s.cfg.traceCap ∧
      s.trace.length ≤ s.cfg.traceCap ∧ traceOk s.trace = true := by
  simp [State.Inv, State.inv, and_assoc]

/-- A trace that is as before or has one transition recorded stays in order and within its capacity. -/
theorem trace_kept_or_recorded {cap : Nat} {tr tr' : List TraceEntry}
    (h : tr' = tr ∨ ∃ src dst, tr' = recordIn cap src dst tr) (hlen : tr.length ≤ cap) (hok : traceOk tr = true) :
    tr'.length ≤ cap ∧ traceOk tr' = true := by
  obtain rfl | ⟨src, dst, rfl⟩ := h
  · exact ⟨hlen, hok⟩
  · exact ⟨recordIn_length _ _ _ _ hlen, recordIn_ok _ _ _ _ hok⟩

theorem StepFrame.inv {i : Instr} {s t : State} (h : StepFrame i s t) (hs : s.Inv) : t.Inv := by
  obtain ⟨hu, hb, hwf, hcap, hlen, hok⟩ := s.inv_iff.1 hs
  obtain ⟨hlen', hok'⟩ := trace_kept_or_recorded h.trace hlen hok
  rw [State.inv_iff, h.cfg]
  exact ⟨h.p.1 hu, h.p.2 hb, h.wf hwf, hcap, hlen', hok'⟩

/-- Settles O8: a step keeps the frame, and the frame keeps the invariant. -/
theorem stepKeepsTheInvariant : Obligations.StepKeepsTheInvariant :=
  fun s t hs h => (step_stepFrame s t h).inv hs

/-- Settles O9, from the frame of a step. -/
theorem stepKeepsRomAndConfiguration : Obligations.StepKeepsRomAndConfiguration := by
  intro s t h
  have hk := step_stepFrame s t h
  exact ⟨hk.rom, hk.cfg, hk.fault, hk.refusal, hk.booted⟩

/-- Settles O13: in Running the frame names WAI and STP; in Waiting and Stopped only the outputs change. -/
theorem onlyWaiAndStpLeaveRunning : Obligations.OnlyWaiAndStpLeaveRunning := by
  intro s t h
  refine ⟨fun hrun hleft => ?_, fun hnot => ?_⟩
  · obtain hsame | hwai | hstp := (step_stepFrame s t h).execState
    · exact absurd (hsame.trans hrun) hleft
    · exact .inl hwai
    · exact .inr hstp
  · obtain ⟨-, -, -, ⟨-, rfl⟩ | ⟨hrun, -⟩⟩ := step_next_cases s t h
    · rfl
    · exact absurd hrun hnot

/-- Settles O7: the reset state's P is 0x24, its stores and its trace are empty. -/
theorem resetMeetsTheInvariant : Obligations.ResetMeetsTheInvariant :=
  (State.inv_iff _).2 ⟨by decide, by decide, by decide, by decide, by decide, by decide⟩

/-! ## Host calls -/

/-- The invariant looks at the memory model only for its canonical form. -/
theorem State.Inv.withMem {s : State} (hs : s.Inv) {m : Banked} (hm : m.wf = true) : ({ s with mem := m } : State).Inv := by
  obtain ⟨hu, hb, -, htrace⟩ := s.inv_iff.1 hs
  exact (State.inv_iff _).2 ⟨hu, hb, hm, htrace⟩

theorem State.Inv.mem_wf {s : State} (hs : s.Inv) : s.mem.wf = true := by
  obtain ⟨-, -, hwf, -⟩ := s.inv_iff.1 hs
  exact hwf

theorem Banked.wf_write16LE (v : WriteView) (m : Banked) (a w : Word) (h : m.wf = true) : (write16LE v m a w).wf = true :=
  Banked.wf_writeByte _ _ _ _ (Banked.wf_writeByte _ _ _ _ h)

theorem Banked.wf_write24LE (v : WriteView) (m : Banked) (a : Word) (w : BitVec 24) (h : m.wf = true) :
    (write24LE v m a w).wf = true :=
  Banked.wf_writeByte _ _ _ _ (Banked.wf_writeByte _ _ _ _ (Banked.wf_writeByte _ _ _ _ h))

/-- CPU reset: P becomes 0x24, and the two vector reads keep the stores. -/
theorem State.cpuReset_inv (s : State) (hs : s.Inv) : s.cpuReset.Inv := by
  obtain ⟨-, -, hwf, htrace⟩ := s.inv_iff.1 hs
  have hmem : s.cpuReset.mem = replay [readEv s.mem resetVector, readEv s.mem (resetVector + 1)] s.mem := by
    simp [State.cpuReset, read16_eq]
  exact (State.inv_iff _).2 ⟨(by decide : getF .u 0x24 = true), (by decide : getF .b 0x24 = false),
    hmem ▸ Banked.wf_replay _ _ hwf, htrace⟩

theorem State.loadROM_inv (s t : State) (bytes : List Byte) (hs : s.Inv) (h : s.loadROM bytes = .ok t) : t.Inv := by
  unfold State.loadROM at h
  split at h
  · rename_i m hm
    cases h
    exact hs.withMem (Banked.wf_loadROM _ _ _ hs.mem_wf hm)
  · cases h

/-- However a step ends: a fault or a refusal sets only its own mark, which the invariant does not look at. -/
theorem State.after_step_inv (s : State) (hs : s.Inv) : (s.after (step s)).Inv := by
  cases h : step s with
  | next t => exact stepKeepsTheInvariant s t hs h
  | fault r => exact hs
  | refused r => cases r <;> exact hs

theorem run_state_inv (n : Nat) (s : State) (hs : s.Inv) : (run n s).state.Inv := by
  induction n generalizing s with
  | zero => exact hs
  | succ n ih =>
    have hafter := s.after_step_inv hs
    rw [run]
    cases h : step s with
    | next t => exact ih t (stepKeepsTheInvariant s t hs h)
    | fault r => rw [h] at hafter; exact hafter
    | refused r => rw [h] at hafter; exact hafter

/-- Settles O26: the calls that write stores keep them canonical, and the Language Card is not looked at; each setter is its one
field's update by definition. -/
theorem hostCallsKeepTheInvariant : Obligations.HostCallsKeepTheInvariant := by
  refine ⟨fun s hs => ?_, fun s b => ⟨rfl, rfl, rfl, rfl⟩⟩
  have hwf := hs.mem_wf
  have hlc (lc : LC) : ({ s with mem := { s.mem with lc := lc } } : State).Inv := hs.withMem hwf
  exact ⟨s.cpuReset_inv hs, hs.withMem (Banked.wf_reset _ hwf), fun bytes t => s.loadROM_inv t bytes hs,
    fun _ => ⟨hlc _, hlc _, hlc _⟩, fun _ _ => hlc _, s.after_step_inv hs, fun n => run_state_inv n s hs,
    fun v a w b q => ⟨hs.withMem (Banked.wf_writeByte v _ a b hwf), hs.withMem (Banked.wf_write16LE v _ a w hwf),
      hs.withMem (Banked.wf_write24LE v _ a q hwf)⟩⟩

end Sys2Proof.Machine

/-! SUPPORT. Proofs of the statements about the stops of a step and about the control-flow trace (10_state.md). -/

namespace Sys2Proof.Machine

/-! ## The step by the fields it looks at, in their order -/

theorem step_of_fault (s : State) (r : Fault) (hf : s.fault = some r) : step s = .fault r := by
  simp [step, hf]

theorem step_of_refusal (s : State) (r : Refusal) (hf : s.fault = none) (hr : s.refusal = some r) : step s = .refused r := by
  simp [step, hf, hr]

theorem step_of_not_booted (s : State) (hf : s.fault = none) (hr : s.refusal = none) (hb : s.booted = false) :
    step s = .refused .notReset := by
  simp [step, hf, hr, hb]

theorem step_of_ready (s : State) (h : s.Ready) : step s = runInstr s := by
  obtain ⟨he, hf, hr, hb⟩ := h
  simp [step, he, hf, hr, hb]

theorem step_of_not_running (s : State) (hf : s.fault = none) (hr : s.refusal = none) (hb : s.booted = true)
    (he : s.execState ≠ .running) : step s = .next s.clearOutputs := by
  cases hx : s.execState with
  | running => exact absurd hx he
  | waiting => simp [step, hf, hr, hb, hx]
  | stopped => simp [step, hf, hr, hb, hx]

/-! ## When a step stops -/

theorem branch_completes (i : Instr) (start : Word) (cond : Bool) (taken : Nat) (rr : Byte) (s : State) :
    ∃ t, branch i start cond taken rr s = .next t := by
  cases cond with
  | true => exact ⟨_, branch_taken i start taken rr s⟩
  | false => exact ⟨_, branch_not_taken i start taken rr s⟩

theorem undocumented_outcome (i : Instr) (op : Byte) (s : State) :
    (∃ t, undocumented i op s = .next t) ∨
      (s.cfg.undocPolicy = .refuse ∧ ∃ op' a, undocumented i op s = .refused (.undocumented op' a)) := by
  cases hp : s.cfg.undocPolicy with
  | nop => exact .inl ⟨_, undocumented_nop i op s hp⟩
  | refuse => exact .inr ⟨rfl, _, _, undocumented_refuse i op s hp⟩

/-- The outcomes of an instruction: a next state, the fault of a JSR to the trap address with no context attached, or the refusal
of an unassigned opcode. The rules of the last arm answer a next state by definition. -/
theorem exec_outcome (i : Instr) (s : State) :
    (∃ t, exec i s = .next t) ∨
      (exec i s = .fault .noMLIContext ∧ s.cfg.ctx = false ∧ ∃ w, i = .jsr w ∧ s.cfg.mliTrapAddr = some w) ∨
      (s.cfg.undocPolicy = .refuse ∧ ∃ op a, exec i s = .refused (.undocumented op a)) := by
  cases i with
  | jsr w => exact (exec_jsr_outcome w s).imp_right fun ⟨hf, hctx, hw⟩ => .inl ⟨hf, hctx, w, rfl, hw⟩
  | nopU1 | nopU2 | nopU2zp | nopU3 => exact (undocumented_outcome _ _ s).imp_right .inr
  | bpl | bmi | bvc | bvs | bcc | bcs | bne | beq => exact .inl (branch_completes _ _ _ _ _ _)
  | bbr0 | bbr1 | bbr2 | bbr3 | bbr4 | bbr5 | bbr6 | bbr7 => exact .inl (branch_completes _ _ _ _ _ _)
  | bbs0 | bbs1 | bbs2 | bbs3 | bbs4 | bbs5 | bbs6 | bbs7 => exact .inl (branch_completes _ _ _ _ _ _)
  | _ => exact .inl ⟨_, rfl⟩

theorem exec_fault (i : Instr) (s : State) (r : Fault) (h : exec i s = .fault r) :
    r = .noMLIContext ∧ s.cfg.ctx = false ∧ ∃ w, i = .jsr w ∧ s.cfg.mliTrapAddr = some w := by
  obtain ⟨t, hn⟩ | ⟨hf, hctx, hw⟩ | ⟨-, op, a, hr⟩ := exec_outcome i s
  · rw [hn] at h; cases h
  · rw [hf] at h; cases h; exact ⟨rfl, hctx, hw⟩
  · rw [hr] at h; cases h

/-- A step ends in a fault that the state does not hold only where the instruction it runs faults. -/
theorem runInstr_of_step_fault (s : State) (r : Fault) (hf : s.fault = none) (h : step s = .fault r) :
    runInstr s = .fault r := by
  cases hr : s.refusal with
  | some f => rw [step_of_refusal s f hf hr] at h; cases h
  | none =>
    cases hb : s.booted with
    | false => rw [step_of_not_booted s hf hr hb] at h; cases h
    | true =>
      by_cases he : s.execState = .running
      · rw [← h, step_of_ready s ⟨he, hf, hr, hb⟩]
      · rw [step_of_not_running s hf hr hb he] at h; cases h

/-- Settles O12: the instruction that faults is a trapped JSR, and the fetches before it keep the parameters. -/
theorem onlyATrappedJsrFaults : Obligations.OnlyATrappedJsrFaults := by
  intro s r hf h
  obtain ⟨hr, hctx, w, hi, hw⟩ := exec_fault _ _ _ (runInstr_of_step_fault s r hf h)
  rw [fetchBytes_cfg] at hctx hw
  exact ⟨hr, hctx, w, hi, hw⟩

/-- Settles O11: step looks at the fault, then at the refusal mark, then at the record of a reset. -/
theorem noStepAfterFaultRefusalOrBeforeReset : Obligations.NoStepAfterFaultRefusalOrBeforeReset :=
  fun s => ⟨step_of_fault s, step_of_refusal s, step_of_not_booted s⟩

/-! ## The control-flow trace -/

theorem record_trace (src dst : Word) (s : State) :
    (record src dst s).trace = recordIn s.cfg.traceCap src dst s.trace := rfl

/-- Settles O31, by the three cases of a record. -/
theorem transitionsAreRecorded : Obligations.TransitionsAreRecorded := by
  intro src dst s
  refine ⟨rfl, fun hf => ?_, fun hf => ?_⟩
  · exact recordIn_filtered _ _ _ _ ((filtered_iff src dst).2 hf)
  have hunfiltered : filtered src dst = false := by simpa [← filtered_iff] using hf
  rw [record_trace]
  refine ⟨fun n es htrace => ?_, fun hnew => ?_⟩
  · rw [htrace, recordIn_same _ _ _ _ _ hunfiltered]
  · rw [recordIn_new _ _ _ _ hunfiltered]
    · rfl
    · rintro ⟨_, _, n⟩ es htrace ⟨rfl, rfl⟩
      exact hnew n es htrace

/-- Over a positive capacity the new entry itself is never the one dropped. -/
theorem pushEntry_eq_cons (cap : Nat) (e : TraceEntry) (t : List TraceEntry) (hcap : 1 ≤ cap) :
    pushEntry cap e t = e :: (pushEntry cap e t).tail := by
  unfold pushEntry
  split
  · rename_i hover
    have ht : t ≠ [] := by rintro rfl; simp only [List.length_singleton] at hover; omega
    rw [List.dropLast_cons_of_ne_nil ht, List.tail_cons]
  · rfl

/-- Recording a transition that the newest entry already holds adds one to its count each time. -/
theorem iterate_recordIn_same (cap n k : Nat) (src dst : Word) (t : List TraceEntry) (h : filtered src dst = false) :
    Nat.iterate (recordIn cap src dst) n (⟨src, dst, k⟩ :: t) = ⟨src, dst, k + n⟩ :: t := by
  induction n generalizing k with
  | zero => rfl
  | succ n ih => rw [Function.iterate_succ_apply, recordIn_same _ _ _ _ _ h, ih, Nat.add_right_comm, Nat.add_assoc]

/-- The first record of a transition leaves its entry of count 1 on top; the others count it up. -/
theorem iterate_recordIn_new (cap n : Nat) (src dst : Word) (t : List TraceEntry) (hcap : 1 ≤ cap)
    (h : filtered src dst = false) (hnew : ∀ e es, t = e :: es → ¬ (e.src = src ∧ e.dst = dst)) :
    Nat.iterate (recordIn cap src dst) (n + 1) t = ⟨src, dst, n + 1⟩ :: (recordIn cap src dst t).tail := by
  have hfirst : recordIn cap src dst t = ⟨src, dst, 1⟩ :: (recordIn cap src dst t).tail := by
    rw [recordIn_new _ _ _ _ h hnew]
    exact pushEntry_eq_cons _ _ _ hcap
  rw [Function.iterate_succ_apply, hfirst, iterate_recordIn_same _ _ _ _ _ _ h, Nat.add_comm, List.tail_cons]

/-- Settles O32: the empty trace is one whose newest entry is no such transition, and its one record leaves nothing below. -/
theorem repeatedTransitionsCollapse : Obligations.RepeatedTransitionsCollapse := by
  intro cap n src dst t hcap h hnew
  refine ⟨?_, iterate_recordIn_new cap n src dst t hcap h hnew⟩
  have htail : (recordIn cap src dst []).tail = [] := by
    rw [recordIn_new _ _ _ _ h (by simp), pushEntry, if_neg (by simp only [List.length_singleton]; omega), List.tail_cons]
  rw [iterate_recordIn_new cap n src dst [] hcap h (by simp), htail]

end Sys2Proof.Machine

/-! SUPPORT. Proof that the trace, its capacity and the outputs of the last call never affect execution (10_state.md R47): an
operation gives the same state, but for the trace, whether the trace is erased before it or after it. -/

namespace Sys2Proof.Machine

/-! ## Outcomes up to the trace -/

/-- The outcome of a step with what is only diagnostic erased. -/
def eraseTrace : Result → Result
  | .next t => .next t.withoutTrace
  | .fault r => .fault r
  | .refused r => .refused r

theorem eraseTrace_eq_next (r : Result) (u : State) : eraseTrace r = .next u ↔ ∃ t, r = .next t ∧ t.withoutTrace = u := by
  cases r <;> simp [eraseTrace]

theorem eraseTrace_eq_fault (r : Result) (f : Fault) : eraseTrace r = .fault f ↔ r = .fault f := by
  cases r <;> simp [eraseTrace]

theorem eraseTrace_eq_refused (r : Result) (f : Refusal) : eraseTrace r = .refused f ↔ r = .refused f := by
  cases r <;> simp [eraseTrace]

/-! ## The operand operations read neither the trace nor its capacity -/

@[simp] theorem State.withoutTrace_pc (s : State) : s.withoutTrace.pc = s.pc := rfl

theorem memRead_withoutTrace (a : Word) (s : State) :
    memRead a s.withoutTrace = ((memRead a s).1, (memRead a s).2.withoutTrace) := rfl

theorem fetchBytes_withoutTrace (n : Nat) (s : State) : fetchBytes n s.withoutTrace = (fetchBytes n s).withoutTrace := by
  induction n generalizing s with
  | zero => rfl
  | succ n ih => exact ih (fetch s).2

theorem resolve_withoutTrace (m : Mem) (s : State) :
    resolve m s.withoutTrace = ((resolve m s).1, (resolve m s).2.withoutTrace) := by
  cases m <;> rfl

theorem readMem_withoutTrace (m : Mem) (s : State) :
    readMem m s.withoutTrace = ⟨(readMem m s).val, (readMem m s).crossed, (readMem m s).state.withoutTrace⟩ := by
  simp only [readMem, resolve_withoutTrace]
  split <;> rfl

theorem readSrc_withoutTrace (src : Src) (s : State) :
    readSrc src s.withoutTrace = ⟨(readSrc src s).val, (readSrc src s).crossed, (readSrc src s).state.withoutTrace⟩ := by
  cases src with
  | imm v => rfl
  | mem m => exact readMem_withoutTrace m s

theorem writeMem_withoutTrace (m : Mem) (v : Byte) (s : State) :
    writeMem m v s.withoutTrace = (writeMem m v s).withoutTrace := by
  simp only [writeMem, resolve_withoutTrace]; rfl

theorem rmwMem_withoutTrace (f : Byte → State → Byte × State) (m : Mem) (s : State)
    (hf : ∀ v t, f v t.withoutTrace = ((f v t).1, (f v t).2.withoutTrace)) :
    rmwMem f m s.withoutTrace = (rmwMem f m s).withoutTrace := by
  simp only [rmwMem, resolve_withoutTrace, memRead_withoutTrace, State.withoutTrace_pc, hf]; rfl

theorem rmwDst_withoutTrace (f : RmwFn) (dst : Dst) (s : State) :
    rmwDst f dst s.withoutTrace = (rmwDst f dst s).withoutTrace := by
  cases dst with
  | acc => rfl
  | mem m => exact rmwMem_withoutTrace _ m s (fun _ _ => rfl)

theorem resolveTarget_withoutTrace (t : Target) (s : State) :
    resolveTarget t s.withoutTrace = ((resolveTarget t s).1, (resolveTarget t s).2.withoutTrace) := by
  cases t <;> rfl

theorem shiftPenalty_withoutTrace (dst : Dst) (s : State) : shiftPenalty dst s.withoutTrace = shiftPenalty dst s := by
  cases dst with
  | acc => rfl
  | mem m => cases m <;> rfl

/-! ## So does every instruction -/

theorem finish_withoutTrace (i : Instr) {s t : State} (h : s = t.withoutTrace) :
    eraseTrace (finish i s) = eraseTrace (finish i t) := by
  subst h; rfl

theorem readInstr_withoutTrace (i : Instr) (src : Src) (f : Byte → State → State) (s : State)
    (hf : ∀ v t, f v t.withoutTrace = (f v t).withoutTrace) :
    eraseTrace (readInstr i src f s.withoutTrace) = eraseTrace (readInstr i src f s) := by
  simp only [readInstr, readSrc_withoutTrace, hf]; rfl

theorem arithInstr_withoutTrace (i : Instr) (src : Src) (alu : Byte → Byte → Byte → Alu) (s : State) :
    eraseTrace (arithInstr i src alu s.withoutTrace) = eraseTrace (arithInstr i src alu s) := by
  simp only [arithInstr, readSrc_withoutTrace]; rfl

theorem shiftInstr_withoutTrace (i : Instr) (f : RmwFn) (dst : Dst) (s : State) :
    eraseTrace (shiftInstr i f dst s.withoutTrace) = eraseTrace (shiftInstr i f dst s) := by
  simp only [shiftInstr, rmwDst_withoutTrace, shiftPenalty_withoutTrace]; rfl

theorem branch_withoutTrace (i : Instr) (start : Word) (cond : Bool) (taken : Nat) (rr : Byte) (s : State) :
    eraseTrace (branch i start cond taken rr s.withoutTrace) = eraseTrace (branch i start cond taken rr s) := by
  cases cond <;> rfl

theorem bitBranch_withoutTrace (i : Instr) (n : Nat) (want : Bool) (nn rr : Byte) (s : State) :
    eraseTrace (bitBranch i n want nn rr s.withoutTrace) = eraseTrace (bitBranch i n want nn rr s) :=
  branch_withoutTrace _ _ _ _ _ (fetch (memRead (zext nn) s).2).2

theorem undocumented_withoutTrace (i : Instr) (op : Byte) (s : State) :
    eraseTrace (undocumented i op s.withoutTrace) = eraseTrace (undocumented i op s) := by
  cases h : s.cfg.undocPolicy with
  | nop => rw [undocumented_nop i op s h, undocumented_nop i op s.withoutTrace h]; rfl
  | refuse => rw [undocumented_refuse i op s h, undocumented_refuse i op s.withoutTrace h]; rfl

/-- The trap: the context is called with the same arguments, and its answer put into the same fields. -/
theorem osTrap_withoutTrace (i : Instr) (start : Word) (s : State) :
    eraseTrace (osTrap i start s.withoutTrace) = eraseTrace (osTrap i start s) := by
  cases h : s.cfg.ctx with
  | false => rw [osTrap_no_ctx i start s h, osTrap_no_ctx i start s.withoutTrace h]
  | true => rw [osTrap_eq i start s h, osTrap_eq i start s.withoutTrace h]; rfl

theorem execJsr_withoutTrace (w : Word) (s : State) :
    eraseTrace (execJsr w s.withoutTrace) = eraseTrace (execJsr w s) := by
  have hcfg : isTrapTarget s.withoutTrace.cfg w = isTrapTarget s.cfg w := rfl
  cases h : isTrapTarget s.cfg w with
  | true =>
    simp only [execJsr, hcfg, h, if_true]
    exact osTrap_withoutTrace _ _ s
  | false =>
    simp only [execJsr, hcfg, h, Bool.false_eq_true, if_false]
    rfl

/-- Every instruction: the outcome is the same up to the trace. The instructions of the last arm write registers, P, PC and the
stack with no choice between two ways, so both sides are one record. -/
theorem exec_withoutTrace (i : Instr) (s : State) : eraseTrace (exec i s.withoutTrace) = eraseTrace (exec i s) := by
  cases i with
  | lda | ldx | ldy | cmp | cpx | cpy | and | ora | eor | bit =>
    simp only [exec, execLda, execLdx, execLdy, execCmp, execCpx, execCpy, execAnd, execOra, execEor, execBit]
    exact readInstr_withoutTrace _ _ _ s (fun _ _ => rfl)
  | adc | sbc => exact arithInstr_withoutTrace _ _ _ s
  | sta | stx | sty | stz => exact finish_withoutTrace _ (writeMem_withoutTrace _ _ s)
  | tsb | trb => exact finish_withoutTrace _ (rmwMem_withoutTrace _ _ s (fun _ _ => rfl))
  | inc | dec => exact finish_withoutTrace _ (rmwDst_withoutTrace _ _ s)
  | asl | lsr | rol | ror => exact shiftInstr_withoutTrace _ _ _ s
  | jmp t => simp only [exec, execJmp, resolveTarget_withoutTrace]; rfl
  | jsr w => exact execJsr_withoutTrace w s
  | bpl | bmi | bvc | bvs | bcc | bcs | bne | beq => exact branch_withoutTrace _ _ _ _ _ s
  | bbr0 | bbr1 | bbr2 | bbr3 | bbr4 | bbr5 | bbr6 | bbr7 => exact bitBranch_withoutTrace _ _ _ _ _ s
  | bbs0 | bbs1 | bbs2 | bbs3 | bbs4 | bbs5 | bbs6 | bbs7 => exact bitBranch_withoutTrace _ _ _ _ _ s
  | nopU1 | nopU2 | nopU2zp | nopU3 => exact undocumented_withoutTrace _ _ s
  | _ => rfl

/-! ## And every step -/

theorem runInstr_withoutTrace (s : State) : eraseTrace (runInstr s.clearOutputs.withoutTrace) = eraseTrace (runInstr s) := by
  have h := exec_withoutTrace (instrAt s) (fetchBytes (instrAt s).fetched s.clearOutputs)
  rw [← fetchBytes_withoutTrace] at h
  exact h

/-- A step up to the trace depends only on the state with the trace and the outputs erased. -/
theorem step_withoutTrace (s : State) : eraseTrace (step s.clearOutputs.withoutTrace) = eraseTrace (step s) := by
  cases hf : s.fault with
  | some r => rw [step_of_fault s r hf, step_of_fault s.clearOutputs.withoutTrace r hf]
  | none =>
    cases hr : s.refusal with
    | some r => rw [step_of_refusal s r hf hr, step_of_refusal s.clearOutputs.withoutTrace r hf hr]
    | none =>
      cases hb : s.booted with
      | false => rw [step_of_not_booted s hf hr hb, step_of_not_booted s.clearOutputs.withoutTrace hf hr hb]
      | true =>
        by_cases he : s.execState = .running
        · rw [step_of_ready s ⟨he, hf, hr, hb⟩, step_of_ready s.clearOutputs.withoutTrace ⟨he, hf, hr, hb⟩]
          exact runInstr_withoutTrace s
        · rw [step_of_not_running s hf hr hb he, step_of_not_running s.clearOutputs.withoutTrace hf hr hb he]
          rfl

/-- Settles O14: both steps are, up to the trace, the step of the one state with the trace and the outputs erased. -/
theorem traceNeverAffectsExecution : Obligations.TraceNeverAffectsExecution := by
  intro s s' hsame
  have hstep : eraseTrace (step s) = eraseTrace (step s') := by
    rw [← step_withoutTrace s, hsame, step_withoutTrace s']
  refine ⟨fun t h => ?_, fun r h => ?_, fun r h => ?_⟩ <;> rw [h] at hstep
  · exact (eraseTrace_eq_next _ _).1 hstep.symm
  · exact (eraseTrace_eq_fault _ _).1 hstep.symm
  · exact (eraseTrace_eq_refused _ _).1 hstep.symm

end Sys2Proof.Machine

/-! SUPPORT. Proofs of the statements about bus events, the Language Card and its soft switches (20_memory.md R79, R95 to R103):
a step's memory is the replay of its bus events, and the Language Card moves only at a switch access. -/

namespace Sys2Proof.Machine

/-! ## The memory of a step -/

/-- Settles O15: in Running the step is one effect from the state with cleared outputs; otherwise it makes no bus access. -/
theorem memoryChangesOnlyThroughBusEvents : Obligations.MemoryChangesOnlyThroughBusEvents := by
  intro s t h hn
  obtain ⟨-, -, -, ⟨-, rfl⟩ | ⟨-, hrun⟩⟩ := step_next_cases s t h
  · exact ⟨rfl, trivial⟩
  · obtain ⟨es, hmem, hbus, hreads⟩ := (runInstr_effect s t hn hrun).bus
    have hes : t.bus = es := by simpa using hbus
    exact hes ▸ ⟨hmem, hreads⟩

/-! ## The soft switches by address bits (R95) -/

/-- The mask of R95 drops the low four bits. -/
theorem getLsbD_and_switchMask (a : Word) (i : Nat) (hi : i < 16) :
    (a &&& 0xFFF0).getLsbD i = (decide (4 ≤ i) && a.getLsbD i) := by
  interval_cases i <;> simp

theorem and_switchMask_toNat (a : Word) : (a &&& 0xFFF0).toNat = a.toNat / 16 * 16 := by
  have h : a &&& (0xFFF0 : Word) = (a >>> 4) <<< 4 := by
    apply BitVec.eq_of_getLsbD_eq
    intro i hi
    rw [getLsbD_and_switchMask a i hi]
    by_cases h4 : 4 ≤ i
    · simp [hi, h4, Nat.add_sub_of_le h4]
    · simp [h4, Nat.lt_of_not_le h4]
  have := a.isLt
  rw [h, BitVec.toNat_shiftLeft, BitVec.toNat_ushiftRight, Nat.shiftLeft_eq, Nat.shiftRight_eq_div_pow]
  omega

theorem isSwitch_iff (a : Word) : isSwitch a = true ↔ a &&& 0xFFF0 = 0xC080 := by
  rw [isSwitch, beq_iff_eq, ← and_switchMask_toNat, ← BitVec.toNat_inj]
  rfl

theorem isSwitch_eq_false_iff (a : Word) : isSwitch a = false ↔ a &&& 0xFFF0 ≠ 0xC080 := by
  rw [Ne, ← isSwitch_iff, Bool.not_eq_true]

theorem getLsbD_eq_div_mod (a : Word) (i : Nat) : a.getLsbD i = decide (a.toNat / 2 ^ i % 2 = 1) := by
  rw [BitVec.getLsbD, Nat.testBit_eq_decide_div_mod_eq]

theorem isCandidate_eq (a : Word) : isCandidate a = a.getLsbD 0 := by
  rw [getLsbD_eq_div_mod, Nat.pow_zero, Nat.div_one]
  rfl

theorem mapsRam_eq (a : Word) : mapsRam a = (a.getLsbD 1 == a.getLsbD 0) := by
  rw [mapsRam, Bool.eq_iff_iff, getLsbD_eq_div_mod, getLsbD_eq_div_mod]
  simp only [Bool.or_eq_true, beq_iff_eq, decide_eq_decide]
  omega

theorem switchBank_eq (a : Word) : switchBank a = if a.getLsbD 3 then .bank1 else .bank2 := by
  simp only [switchBank, getLsbD_eq_div_mod, decide_eq_true_eq, Nat.reducePow]

/-! ## One access and the Language Card (R96 to R99) -/

theorem LC.access_of_switch (lc : LC) (a : Word) (isRead : Bool) (h : isSwitch a = true) :
    lc.access a isRead = lc.switched a isRead := by
  simp [LC.access, h]

theorem LC.access_of_not_switch (lc : LC) (a : Word) (isRead : Bool) (h : isSwitch a = false) :
    lc.access a isRead = lc := by
  simp [LC.access, h]

@[simp] theorem LC.switched_latch (lc : LC) (a : Word) (isRead : Bool) :
    (lc.switched a isRead).latch = (isCandidate a && isRead) := rfl

theorem LC.switched_writeEnabled_of_candidate_read (lc : LC) (a : Word) (h : isCandidate a = true) :
    (lc.switched a true).writeEnabled = (lc.latch || lc.writeEnabled) := by
  cases hl : lc.latch <;> simp [LC.switched, h, hl]

theorem LC.switched_writeEnabled_of_candidate_write (lc : LC) (a : Word) (h : isCandidate a = true) :
    (lc.switched a false).writeEnabled = lc.writeEnabled := by
  simp [LC.switched, h]

theorem LC.switched_writeEnabled_of_not_candidate (lc : LC) (a : Word) (isRead : Bool) (h : isCandidate a = false) :
    (lc.switched a isRead).writeEnabled = false := by
  simp [LC.switched, h]

theorem isSwitch_xor_bit2 (a : Word) : isSwitch (a ^^^ 0x4) = isSwitch a := by
  have hmask : (a ^^^ 0x4) &&& 0xFFF0 = a &&& 0xFFF0 := by
    apply BitVec.eq_of_getLsbD_eq
    intro i hi
    rw [getLsbD_and_switchMask _ i hi, getLsbD_and_switchMask _ i hi, BitVec.getLsbD_xor]
    interval_cases i <;> simp
  rw [Bool.eq_iff_iff, isSwitch_iff, isSwitch_iff, hmask]

/-- Bit 2 of the address takes no part in the state machine. -/
theorem LC.switched_xor_bit2 (lc : LC) (a : Word) (isRead : Bool) :
    lc.switched (a ^^^ 0x4) isRead = lc.switched a isRead := by
  simp [LC.switched, isCandidate_eq, mapsRam_eq, switchBank_eq]

/-- Settles O21, field by field of the switched Language Card. -/
theorem softSwitchStateMachine : Obligations.SoftSwitchStateMachine := by
  intro m a isRead
  refine ⟨fun h => ?_, fun h => ?_⟩
  · have hs := (isSwitch_eq_false_iff a).2 h
    rw [Banked.applySoftSwitch, LC.access_of_not_switch _ _ _ hs, hs]
  have hs := (isSwitch_iff a).2 h
  have hbit2 : m.applySoftSwitch (a ^^^ 0x4) isRead = m.applySoftSwitch a isRead := by
    simp only [Banked.applySoftSwitch, LC.access, isSwitch_xor_bit2, LC.switched_xor_bit2]
  refine ⟨m.lc.switched a isRead, ?_, ?_, ?_, ?_, ?_, ?_, hbit2⟩
  · rw [Banked.applySoftSwitch, LC.access_of_switch _ _ _ hs, hs]
  · simp [LC.switched, switchBank_eq]
  · simp [LC.switched, mapsRam_eq]
  all_goals rw [← isCandidate_eq]
  · rintro hc rfl
    exact ⟨by simp [hc], LC.switched_writeEnabled_of_candidate_read _ _ hc⟩
  · rintro hc rfl
    exact ⟨by simp, LC.switched_writeEnabled_of_candidate_write _ _ hc⟩
  · intro hc
    exact ⟨by simp [hc], LC.switched_writeEnabled_of_not_candidate _ _ _ hc⟩

/-! ## Lists of accesses and the Language Card -/

/-- A read or a write touches the Language Card by its address and kind alone. -/
theorem BusEvent.apply_lc (e : BusEvent) (m : Banked) : (e.apply m).lc = m.lc.access e.addr e.isRead := by
  cases e with
  | read a v => exact apply_read_lc a v m
  | write a v => exact apply_write_lc a v m

theorem replay_lc_of_no_switch (es : List BusEvent) (m : Banked) (h : ∀ e ∈ es, isSwitch e.addr = false) :
    (replay es m).lc = m.lc := by
  induction es generalizing m with
  | nil => rfl
  | cons e es ih =>
    rw [List.forall_mem_cons] at h
    rw [replay_cons, ih _ h.2, BusEvent.apply_lc, LC.access_of_not_switch _ _ _ h.1]

/-- Settles O16: the memory after the step is the replay of its events, none of which is at a switch. -/
theorem languageCardFollowsSwitchAccesses : Obligations.LanguageCardFollowsSwitchAccesses := by
  intro s t h hn hes
  rw [(memoryChangesOnlyThroughBusEvents s t h hn).1]
  exact replay_lc_of_no_switch _ _ fun e he => (isSwitch_eq_false_iff _).2 (hes e he)

/-- A candidate read after a first access and any accesses that are no switches: write is enabled if the first access left the
latch set, and otherwise as the first access left it. -/
theorem replay_candidate_read_writeEnabled (m : Banked) (e : BusEvent) (es : List BusEvent) (b : Word) (w : Byte)
    (hb : isSwitch b = true) (hc : isCandidate b = true) (hes : ∀ f ∈ es, isSwitch f.addr = false) :
    (replay (e :: es ++ [.read b w]) m).lc.writeEnabled = ((e.apply m).lc.latch || (e.apply m).lc.writeEnabled) := by
  rw [replay_append, replay_cons, replay_cons, replay_nil, apply_read_lc, replay_lc_of_no_switch _ _ hes,
    LC.access_of_switch _ _ _ hb, LC.switched_writeEnabled_of_candidate_read _ _ hc]

/-- Settles O22: a candidate read leaves the latch set; a write or a non-candidate access leaves it clear. -/
theorem twoCandidateReadsEnableWrite : Obligations.TwoCandidateReadsEnableWrite := by
  intro m es a b v w ha hb hcb hes
  have hlast (e : BusEvent) := replay_candidate_read_writeEnabled m e es b w hb hcb hes
  have hread : ((BusEvent.read a v).apply m).lc = m.lc.switched a true := by
    rw [apply_read_lc, LC.access_of_switch _ _ _ ha]
  have hwrite : ((BusEvent.write a v).apply m).lc = m.lc.switched a false := by
    rw [apply_write_lc, LC.access_of_switch _ _ _ ha]
  refine ⟨fun hca => ?_, ?_, fun hca => ?_⟩
  · rw [hlast, hread, LC.switched_latch, hca, Bool.true_and, Bool.true_or]
  · rw [hlast, hwrite, LC.switched_latch, Bool.and_false, Bool.false_or]
  · rw [hlast, hread, LC.switched_latch, LC.switched_writeEnabled_of_not_candidate _ _ _ hca, hca, Bool.false_and,
      Bool.or_false]

end Sys2Proof.Machine

/-! SUPPORT. Proofs of the statements about the two buses, the byte-level maps, the multi-byte helpers, the ROM image and memory
reset (20_memory.md R72 to R94). -/

namespace Sys2Proof.Machine

/-! ## The bindings of a window (R83, R88, R89) -/

theorem LC.readBind_readDisabled (lc : LC) (w : Nat) (hw : 13 ≤ w) (h : lc.readEnabled = false) : lc.readBind w = .rom := by
  simp [LC.readBind, h, Nat.not_le.2 hw]

theorem LC.readBind_bank2 (lc : LC) (w : Nat) (h : lc.readEnabled = true) (h2 : w = 13 ∧ lc.bank = .bank2) :
    lc.readBind w = .lcBank2 := by
  simp [LC.readBind, h, h2]

theorem LC.readBind_ram (lc : LC) (w : Nat) (h : lc.readEnabled = true) (h2 : ¬ (w = 13 ∧ lc.bank = .bank2)) :
    lc.readBind w = .ram := by
  simp [LC.readBind, h, h2]

theorem LC.writeBind_writeDisabled (lc : LC) (w : Nat) (hw : 13 ≤ w) (h : lc.writeEnabled = false) :
    lc.writeBind w = .writeSink := by
  simp [LC.writeBind, h, Nat.not_le.2 hw]

theorem LC.writeBind_bank2 (lc : LC) (w : Nat) (h : lc.writeEnabled = true) (h2 : w = 13 ∧ lc.bank = .bank2) :
    lc.writeBind w = .lcBank2 := by
  simp [LC.writeBind, h, h2]

theorem LC.writeBind_ram (lc : LC) (w : Nat) (h : w ≤ 12 ∨ (lc.writeEnabled = true ∧ ¬ (w = 13 ∧ lc.bank = .bank2))) :
    lc.writeBind w = .ram := by
  obtain h | ⟨h, h2⟩ := h
  · simp [LC.writeBind, h]
  · simp [LC.writeBind, h, h2]

/-! ## The byte-level maps (R87 to R89) -/

theorem readMap_readDisabled (m : Banked) (a : Word) (hw : 13 ≤ bank a) (h : m.lc.readEnabled = false) :
    m.readMap a = m.readFrom .rom a := by
  rw [Banked.readMap, LC.readBind_readDisabled _ _ hw h]

theorem readMap_bank2 (m : Banked) (a : Word) (h : m.lc.readEnabled = true) (h2 : bank a = 13 ∧ m.lc.bank = .bank2) :
    m.readMap a = Memory.read m.lc2 (offset a) := by
  rw [Banked.readMap, LC.readBind_bank2 _ _ h h2]
  rfl

theorem readMap_ram (m : Banked) (a : Word) (h : m.lc.readEnabled = true) (h2 : ¬ (bank a = 13 ∧ m.lc.bank = .bank2)) :
    m.readMap a = Memory.read m.ram a.toNat := by
  rw [Banked.readMap, LC.readBind_ram _ _ h h2]
  rfl

theorem writeMap_writeDisabled (m : Banked) (a : Word) (v : Byte) (hw : 13 ≤ bank a) (h : m.lc.writeEnabled = false) :
    m.writeMap a v = m := by
  rw [Banked.writeMap, LC.writeBind_writeDisabled _ _ hw h]
  rfl

theorem writeMap_bank2 (m : Banked) (a : Word) (v : Byte) (h : m.lc.writeEnabled = true)
    (h2 : bank a = 13 ∧ m.lc.bank = .bank2) :
    m.writeMap a v = { m with lc2 := Memory.write m.lc2 (offset a) v } := by
  rw [Banked.writeMap, LC.writeBind_bank2 _ _ h h2]
  rfl

theorem writeMap_ram (m : Banked) (a : Word) (v : Byte)
    (h : bank a ≤ 12 ∨ (m.lc.writeEnabled = true ∧ ¬ (bank a = 13 ∧ m.lc.bank = .bank2))) :
    m.writeMap a v = { m with ram := Memory.write m.ram a.toNat v } := by
  rw [Banked.writeMap, LC.writeBind_ram _ _ h]
  rfl

@[simp] theorem writeMap_lc (m : Banked) (a : Word) (v : Byte) : (m.writeMap a v).lc = m.lc := by
  unfold Banked.writeMap
  cases m.lc.writeBind (bank a) <;> rfl

/-- A write changes at most the byte of `ram` or `lc2` that its address names. -/
theorem storesOnlyAt_writeMap (m : Banked) (a : Word) (v : Byte) : StoresOnlyAt [a] m (m.writeMap a v) :=
  storesOnlyAt_apply_write a v m

/-- While LC write is disabled no write reaches `lc2`. -/
theorem writeMap_lc2_of_writeDisabled (m : Banked) (a : Word) (v : Byte) (h : m.lc.writeEnabled = false) :
    (m.writeMap a v).lc2 = m.lc2 := by
  by_cases hw : bank a ≤ 12
  · rw [writeMap_low _ _ _ hw]
  · rw [writeMap_writeDisabled _ _ _ (Nat.not_le.1 hw) h]

/-- Settles O18: one binding per clause. -/
theorem readBusFollowsLanguageCard : Obligations.ReadBusFollowsLanguageCard := fun m a =>
  ⟨readMap_low m a, readMap_readDisabled m a, fun _ => readMap_bank2 m a, fun _ => readMap_ram m a⟩

/-- Settles O19: one binding per clause, and read after write in the store written. -/
theorem writeBusFollowsLanguageCard : Obligations.WriteBusFollowsLanguageCard := by
  intro m a v hwf
  obtain ⟨hram, hlc2, -⟩ := m.wf_iff.1 hwf
  refine ⟨(storesOnlyAt_writeMap m a v).2.2, writeMap_lc m a v, fun h => ?_, writeMap_writeDisabled m a v,
    fun h13 hw h2 => ?_⟩
  · rw [writeMap_ram _ _ _ h]
    exact ⟨rfl, fun k => Memory.read_write _ _ hram _ _ _⟩
  · rw [writeMap_bank2 _ _ _ hw ⟨h13, h2⟩]
    exact ⟨rfl, fun k => Memory.read_write _ _ hlc2 _ _ _⟩

/-- In windows 13 to 15 a byte written reads back under every Language Card that reads the bank that was written. -/
theorem readMap_writeMap_of_enabled (m : Banked) (a : Word) (v : Byte) (lc : LC) (hwf : m.wf = true)
    (hw : m.lc.writeEnabled = true) (hr : lc.readEnabled = true) (hb : lc.bank = m.lc.bank) :
    ({ m.writeMap a v with lc := lc } : Banked).readMap a = v := by
  obtain ⟨hram, hlc2, -⟩ := m.wf_iff.1 hwf
  by_cases h2 : bank a = 13 ∧ m.lc.bank = .bank2
  · rw [readMap_bank2 _ _ hr (hb ▸ h2), writeMap_bank2 _ _ _ hw h2]
    exact Memory.read_write_same _ _ _ hlc2 _ _
  · rw [readMap_ram _ _ hr (hb ▸ h2), writeMap_ram _ _ _ (.inr ⟨hw, h2⟩)]
    exact Memory.read_write_same _ _ _ hram _ _

/-- Settles O20: the buses diverge only where the read goes to the ROM or the write to the sink. -/
theorem writeThenReadRoundTrip : Obligations.WriteThenReadRoundTrip := by
  intro m a v hwf
  refine ⟨fun hlow => ?_, fun _ hr hw => ?_, fun h13 hr => ?_, writeMap_writeDisabled m a v, fun _ hw => ?_⟩
  · rw [readMap_low _ _ hlow, writeMap_low _ _ _ hlow]
    exact Memory.read_write_same _ _ _ (m.wf_iff.1 hwf).1 _ _
  · exact readMap_writeMap_of_enabled m a v (m.writeMap a v).lc hwf hw (by rw [writeMap_lc, hr]) (by rw [writeMap_lc])
  · rw [readMap_readDisabled _ _ h13 (by rw [writeMap_lc, hr]), ← (storesOnlyAt_writeMap m a v).2.2]
    rfl
  · exact readMap_writeMap_of_enabled m a v _ hwf hw rfl rfl

/-! ## The views (R72, R82, R83, R86) -/

theorem readBus_get (m : Banked) (w : Fin 16) : m.readBus.get w = m.lc.readBind w := Vector.getElem_ofFn w.isLt

theorem writeBus_get (m : Banked) (w : Fin 16) : m.writeBus.get w = m.lc.writeBind w := Vector.getElem_ofFn w.isLt

@[simp] theorem readByte_readBus (m : Banked) (a : Word) : readByte m.readBus m a = m.readMap a := by
  rw [readByte, readBus_get]
  rfl

/-- The write view holds for every memory model with the Language Card it was made from. -/
theorem writeByte_writeBus (m m' : Banked) (a : Word) (v : Byte) (h : m'.lc = m.lc) :
    writeByte m.writeBus m' a v = m'.writeMap a v := by
  rw [writeByte, writeBus_get, ← h]
  rfl

/-- Settles O23: a CPU access is made with the Language Card that the accesses before it left. -/
theorem busViewsGiveTheMaps : Obligations.BusViewsGiveTheMaps := by
  refine ⟨fun m a v => ⟨readByte_readBus m a, writeByte_writeBus m m a v rfl, writeMap_lc m a v⟩, fun m m' h => ?_,
    fun es s a v => ⟨(readByte_readBus _ a).symm, ?_⟩⟩
  · rw [Banked.readBus, Banked.writeBus, h]
    exact ⟨rfl, rfl⟩
  · rw [writeByte_writeBus _ _ _ _ rfl]
    exact ⟨rfl, rfl, rfl⟩

/-! ## Several writes through the write bus -/

/-- The bytes of a list written through `WriteMap`, in order. -/
def Banked.writeMaps : List (Word × Byte) → Banked → Banked
  | [], m => m
  | (a, v) :: l, m => Banked.writeMaps l (m.writeMap a v)

@[simp] theorem writeMaps_lc (l : List (Word × Byte)) (m : Banked) : (m.writeMaps l).lc = m.lc := by
  induction l generalizing m with
  | nil => rfl
  | cons e l ih => exact (ih _).trans (writeMap_lc _ _ _)

theorem storesOnlyAt_writeMaps (l : List (Word × Byte)) (m : Banked) : StoresOnlyAt (l.map Prod.fst) m (m.writeMaps l) := by
  induction l generalizing m with
  | nil => exact StoresOnlyAt.of_same _ (SameStores.refl m)
  | cons e l ih => exact (storesOnlyAt_writeMap m e.1 e.2).trans (ih _)

theorem writeMaps_lc2_of_writeDisabled (l : List (Word × Byte)) (m : Banked) (h : m.lc.writeEnabled = false) :
    (m.writeMaps l).lc2 = m.lc2 := by
  induction l generalizing m with
  | nil => rfl
  | cons e l ih => exact (ih _ (by rw [writeMap_lc, h])).trans (writeMap_lc2_of_writeDisabled _ _ _ h)

/-- The bytes that address `a` names are the same, and so is everything that decides where a write of `a` goes. -/
structure SameAt (a : Word) (m m' : Banked) : Prop where
  lc : m'.lc = m.lc
  ram : Memory.read m'.ram a.toNat = Memory.read m.ram a.toNat
  lc2 : bank a = 13 → Memory.read m'.lc2 (offset a) = Memory.read m.lc2 (offset a)
  lc2_of_writeDisabled : m.lc.writeEnabled = false → m'.lc2 = m.lc2

theorem sameAt_writeMaps (a : Word) (l : List (Word × Byte)) (m : Banked) (h : a ∉ l.map Prod.fst) :
    SameAt a m (m.writeMaps l) := by
  obtain ⟨hram, hlc2, -⟩ := storesOnlyAt_writeMaps l m
  have hne (b : Word) (hb : b ∈ l.map Prod.fst) : a.toNat ≠ b.toNat := fun he => h (BitVec.toNat_inj.1 he ▸ hb)
  refine ⟨writeMaps_lc l m, hram _ hne, fun h13 => hlc2 _ ?_, writeMaps_lc2_of_writeDisabled l m⟩
  rintro b hb ⟨hb13, hoff⟩
  have := hne b hb
  simp only [bank, offset] at h13 hb13 hoff
  omega

/-- One write puts its byte where R89 says. -/
theorem putsByte_writeMap (m : Banked) (a : Word) (v : Byte) (hwf : m.wf = true) : PutsByte m (m.writeMap a v) a v := by
  obtain ⟨-, -, hram, hnone, hbank2⟩ := writeBusFollowsLanguageCard m a v hwf
  refine ⟨fun h => ?_, fun _ hw h1 => ?_, fun h13 hw h2 => ?_, fun h13 hw => ?_⟩
  · rw [(hram h).2, if_pos rfl]
  · rw [(hram (.inr ⟨hw, by simp [h1]⟩)).1]
  · obtain ⟨hsame, hread⟩ := hbank2 h13 hw h2
    exact ⟨by rw [hread, if_pos rfl], by rw [hsame]⟩
  · rw [hnone h13 hw]
    exact ⟨rfl, rfl⟩

/-- Writes elsewhere before the write of `a` do not matter. -/
theorem PutsByte.of_sameAt_before {m m₁ m' : Banked} {a : Word} {v : Byte} (hs : SameAt a m m₁) (h : PutsByte m₁ m' a v) :
    PutsByte m m' a v := by
  obtain ⟨hlc, hram, hlc2, hoff⟩ := hs
  obtain ⟨h1, h2, h3, h4⟩ := h
  rw [hlc] at h1 h2 h3 h4
  exact ⟨h1, fun h13 hw hb => (h2 h13 hw hb).trans (hlc2 h13), fun h13 hw hb => (h3 h13 hw hb).imp_right (·.trans hram),
    fun h13 hw => (h4 h13 hw).imp (·.trans hram) (·.trans (hoff hw))⟩

/-- Nor do writes elsewhere after it. -/
theorem PutsByte.of_sameAt_after {m m₁ m' : Banked} {a : Word} {v : Byte} (h : PutsByte m m₁ a v) (hlc : m₁.lc = m.lc)
    (hs : SameAt a m₁ m') : PutsByte m m' a v := by
  obtain ⟨-, hram, hlc2, hoff⟩ := hs
  obtain ⟨h1, h2, h3, h4⟩ := h
  rw [hlc] at hoff
  exact ⟨fun hw => hram.trans (h1 hw), fun h13 hw hb => (hlc2 h13).trans (h2 h13 hw hb),
    fun h13 hw hb => (h3 h13 hw hb).imp ((hlc2 h13).trans ·) (hram.trans ·),
    fun h13 hw => (h4 h13 hw).imp (hram.trans ·) ((hoff hw).trans ·)⟩

/-- Of writes at different addresses each puts its own byte. -/
theorem putsByte_writeMaps (l : List (Word × Byte)) (m : Banked) (hwf : m.wf = true) (hl : (l.map Prod.fst).Nodup) :
    ∀ e ∈ l, PutsByte m (m.writeMaps l) e.1 e.2 := by
  induction l generalizing m with
  | nil => simp
  | cons e l ih =>
    rw [List.map_cons, List.nodup_cons] at hl
    rw [List.forall_mem_cons]
    refine ⟨(putsByte_writeMap m e.1 e.2 hwf).of_sameAt_after (writeMap_lc _ _ _) (sameAt_writeMaps _ _ _ hl.1), ?_⟩
    intro f hf
    have hne : f.1 ∉ [e].map Prod.fst := by
      rw [List.map_singleton, List.mem_singleton]
      exact fun he => hl.1 (he ▸ List.mem_map_of_mem hf)
    exact (ih _ (Banked.wf_writeMap m _ _ hwf) hl.2 f hf).of_sameAt_before (sameAt_writeMaps f.1 [e] m hne)

/-! ## The 16- and 24-bit helpers and the counted string (R73 to R76) -/

/-- The two bytes of a word, low byte first, with their addresses (R74). -/
def cells16 (a w : Word) : List (Word × Byte) :=
  [(a, BitVec.ofNat 8 w.toNat), (a + 1, BitVec.ofNat 8 (w.toNat / 0x100))]

/-- The three bytes of a 24-bit value, low byte first, with their addresses (R75). -/
def cells24 (a : Word) (w : BitVec 24) : List (Word × Byte) :=
  [(a, BitVec.ofNat 8 w.toNat), (a + 1, BitVec.ofNat 8 (w.toNat / 0x100)), (a + 2, BitVec.ofNat 8 (w.toNat / 0x10000))]

theorem write16LE_writeBus (m : Banked) (a w : Word) : write16LE m.writeBus m a w = m.writeMaps (cells16 a w) := by
  simp only [write16LE, writeByte_writeBus, writeMap_lc]
  rfl

theorem write24LE_writeBus (m : Banked) (a : Word) (w : BitVec 24) :
    write24LE m.writeBus m a w = m.writeMaps (cells24 a w) := by
  simp only [write24LE, writeByte_writeBus, writeMap_lc]
  rfl

theorem read16LE_toNat (v : ReadView) (m : Banked) (a : Word) :
    (read16LE v m a).toNat = (readByte v m a).toNat + 0x100 * (readByte v m (a + 1)).toNat := by
  rw [read16LE, join_toNat]
  omega

theorem read24LE_toNat (v : ReadView) (m : Banked) (a : Word) :
    (read24LE v m a).toNat = (readByte v m a).toNat + 0x100 * (readByte v m (a + 1)).toNat +
      0x10000 * (readByte v m (a + 2)).toNat := by
  have := (readByte v m a).isLt
  have := (readByte v m (a + 1)).isLt
  have := (readByte v m (a + 2)).isLt
  rw [read24LE, BitVec.toNat_ofNat]
  omega

/-- Below window 13 a byte that was put reads back through the read bus. -/
theorem PutsByte.readByte_readBus {m m' : Banked} {a : Word} {v : Byte} (h : PutsByte m m' a v) (hlow : bank a ≤ 12) :
    readByte m'.readBus m' a = v := by
  rw [Machine.readByte_readBus, readMap_low _ _ hlow]
  exact h.1 (.inl hlow)

theorem getElem?_readBytes (v : ReadView) (m : Banked) (n k : Nat) (a : Word) :
    (readBytes v m n a)[k]? = if k < n then some (readByte v m (a + BitVec.ofNat 16 k)) else none := by
  induction n generalizing k a with
  | zero => simp [readBytes]
  | succ n ih =>
    cases k with
    | zero => simp [readBytes]
    | succ k =>
      have hk : a + 1 + BitVec.ofNat 16 k = a + BitVec.ofNat 16 (k + 1) := by
        rw [BitVec.add_assoc, BitVec.add_comm 1, BitVec.ofNat_add]
        rfl
      simp only [readBytes, List.getElem?_cons_succ, ih, hk, Nat.add_lt_add_iff_right]

theorem putsByte_writeMaps_cells16 (m : Banked) (a w : Word) (hwf : m.wf = true) :
    let m' := m.writeMaps (cells16 a w)
    PutsByte m m' a (BitVec.ofNat 8 w.toNat) ∧ PutsByte m m' (a + 1) (BitVec.ofNat 8 (w.toNat / 0x100)) := by
  have hput := putsByte_writeMaps (cells16 a w) m hwf (by simp [cells16])
  obtain ⟨h0, hput⟩ := List.forall_mem_cons.1 hput
  obtain ⟨h1, -⟩ := List.forall_mem_cons.1 hput
  exact ⟨h0, h1⟩

theorem putsByte_writeMaps_cells24 (m : Banked) (a : Word) (w : BitVec 24) (hwf : m.wf = true) :
    let m' := m.writeMaps (cells24 a w)
    PutsByte m m' a (BitVec.ofNat 8 w.toNat) ∧ PutsByte m m' (a + 1) (BitVec.ofNat 8 (w.toNat / 0x100)) ∧
      PutsByte m m' (a + 2) (BitVec.ofNat 8 (w.toNat / 0x10000)) := by
  have hput := putsByte_writeMaps (cells24 a w) m hwf (by simp [cells24])
  obtain ⟨h0, hput⟩ := List.forall_mem_cons.1 hput
  obtain ⟨h1, hput⟩ := List.forall_mem_cons.1 hput
  obtain ⟨h2, -⟩ := List.forall_mem_cons.1 hput
  exact ⟨h0, h1, h2⟩

/-- Settles O24: the helpers write at different addresses, each its byte of the value. -/
theorem multiByteHelpersWrap : Obligations.MultiByteHelpersWrap := by
  refine ⟨fun v m a => ⟨read16LE_toNat v m a, read24LE_toNat v m a⟩, by decide, fun m a w hwf => ?_, fun m a w hwf => ?_,
    fun v m a maxLen k => getElem?_readBytes v m _ k (a + 1)⟩
  · obtain ⟨h0, h1⟩ := putsByte_writeMaps_cells16 m a w hwf
    rw [write16LE_writeBus]
    refine ⟨writeMaps_lc _ m, storesOnlyAt_writeMaps (cells16 a w) m, h0, h1, fun hb0 hb1 => BitVec.eq_of_toNat_eq ?_⟩
    have hw := w.isLt
    rw [read16LE_toNat, h0.readByte_readBus hb0, h1.readByte_readBus hb1, BitVec.toNat_ofNat, BitVec.toNat_ofNat]
    omega
  · obtain ⟨h0, h1, h2⟩ := putsByte_writeMaps_cells24 m a w hwf
    rw [write24LE_writeBus]
    refine ⟨writeMaps_lc _ m, storesOnlyAt_writeMaps (cells24 a w) m, h0, h1, h2,
      fun hb0 hb1 hb2 => BitVec.eq_of_toNat_eq ?_⟩
    have hw := w.isLt
    rw [read24LE_toNat, h0.readByte_readBus hb0, h1.readByte_readBus hb1, h2.readByte_readBus hb2, BitVec.toNat_ofNat,
      BitVec.toNat_ofNat, BitVec.toNat_ofNat]
    omega

/-! ## The ROM image and memory reset (R92, R94) -/

theorem Memory.read_writeAll_below (bs : List Byte) (m : Memory) (base k : Nat) (h : k < base) :
    Memory.read (Memory.writeAll m base bs) k = Memory.read m k := by
  induction bs generalizing m base with
  | nil => rfl
  | cons b bs ih =>
    rw [Memory.writeAll, ih _ _ (Nat.lt_succ_of_lt h), Memory.read_write_other _ _ _ _ (Nat.ne_of_lt h)]

theorem Memory.read_writeAll (size : Nat) (bs : List Byte) (m : Memory) (base k : Nat) (hwf : Memory.wf size m = true)
    (hsize : base + bs.length ≤ size) (h : k < bs.length) :
    Memory.read (Memory.writeAll m base bs) (base + k) = bs[k] := by
  induction bs generalizing m base k with
  | nil => simp at h
  | cons b bs ih =>
    rw [List.length_cons] at hsize h
    cases k with
    | zero =>
      have hkeep := Memory.read_writeAll_below bs (Memory.write m base b) (base + 1) base (Nat.lt_add_one _)
      exact hkeep.trans (Memory.read_write_same _ _ _ hwf _ _)
    | succ k =>
      have hstep := ih (Memory.write m base b) (base + 1) k (Memory.wf_write _ _ _ _ hwf (by omega)) (by omega) (by omega)
      rw [Nat.add_right_comm, Nat.add_assoc] at hstep
      exact hstep

/-- A byte of a present ROM shows at 0xD000 and up while LC read is disabled (R81, R88). -/
theorem readMap_rom (m : Banked) (rom : Memory) (k : Nat) (hrom : m.rom = some rom) (h : m.lc.readEnabled = false)
    (hk : k < romSize) : m.readMap (BitVec.ofNat 16 (0xD000 + k)) = Memory.read rom k := by
  have ha : (BitVec.ofNat 16 (0xD000 + k)).toNat = 0xD000 + k := by
    rw [BitVec.toNat_ofNat]
    unfold romSize at hk
    omega
  rw [readMap_readDisabled _ _ (by rw [bank, ha]; omega) h]
  simp only [Banked.readFrom, hrom, ha, romBase, Nat.add_sub_cancel_left]

theorem State.loadROM_of_length_ne (s : State) (bytes : List Byte) (h : bytes.length ≠ romSize) :
    s.loadROM bytes = .error .sizeMismatch := by
  simp [State.loadROM, Banked.loadROM, h]

theorem State.loadROM_of_length_eq (s : State) (bytes : List Byte) (h : bytes.length = romSize) :
    s.loadROM bytes = .ok { s with mem := { s.mem with rom := some (Memory.writeAll [] 0 bytes) } } := by
  simp [State.loadROM, Banked.loadROM, h]

/-- Settles O25: the image is the list written from byte 0 up over an empty store. -/
theorem loadRomChecksTheSize : Obligations.LoadRomChecksTheSize := by
  intro s bytes
  refine ⟨s.loadROM_of_length_ne bytes, fun hlen => ⟨_, s.loadROM_of_length_eq bytes hlen, fun k hk => ?_⟩⟩
  have hread : Memory.read (Memory.writeAll [] 0 bytes) k = bytes[k] := by
    simpa using Memory.read_writeAll romSize bytes [] 0 k rfl (by rw [hlen, romSize]) hk
  exact ⟨hread, (readMap_rom _ _ k rfl rfl (hk.trans_eq hlen)).trans hread⟩

/-- Settles O28: an empty store reads 0x00 everywhere. -/
theorem memoryResetEffect : Obligations.MemoryResetEffect :=
  fun _ => ⟨fun _ => rfl, fun _ => rfl, rfl⟩

end Sys2Proof.Machine

/-! SUPPORT. Proofs of the statements about the encoding (30_encoding.md): the opcode grid read row by row, what decodes encodes
to the bytes it came from, and every well-formed instruction is decoded from its own bytes. -/

namespace Sys2Proof

open Machine (hi lo join hi_join lo_join join_hi_lo)

/-! ## The opcode grid as rows (30_encoding.md section 6) -/

/-- The 16 opcode bytes of row `r` of the grid. -/
def rowOpcodes (r : Nat) : List Byte := (List.range 16).map (fun n => BitVec.ofNat 8 (16 * r + n))

theorem mem_rowOpcodes (op : Byte) : op ∈ rowOpcodes (op.toNat / 16) :=
  List.mem_map.2 ⟨op.toNat % 16, List.mem_range.2 (Nat.mod_lt _ (by decide)), by simp [Nat.div_add_mod]⟩

/-- Two functions of the opcode byte agree everywhere when their rows do. A row is compared by evaluation, with the operand
bytes left as variables. -/
theorem eq_of_rows_eq {α : Type} (f g : Byte → α) (h : ∀ r < 16, (rowOpcodes r).map f = (rowOpcodes r).map g)
    (op : Byte) : f op = g op :=
  List.map_inj_left.1 (h (op.toNat / 16) (by have := op.isLt; omega)) op (mem_rowOpcodes op)

/-- The number of operand bytes after opcode `op` with `BITOPS` = present, by the columns of section 6. -/
def gridOperandCount (op : Byte) : Nat :=
  match op.toNat % 16 with
  | 0x0 => if op = 0x20 then 2 else if op = 0x40 ∨ op = 0x60 then 0 else 1
  | 0x9 => 1 + op.toNat / 16 % 2
  | 0x3 | 0x8 | 0xA | 0xB => 0
  | 0xC | 0xD | 0xE | 0xF => 2
  | _ => 1

theorem gridOperandCount_le_two (op : Byte) : gridOperandCount op ≤ 2 := by
  unfold gridOperandCount
  split
  · split_ifs <;> decide
  all_goals omega

theorem length_grid (op b1 b2 : Byte) : (grid op b1 b2).length = 1 + gridOperandCount op :=
  eq_of_rows_eq (fun op => (grid op b1 b2).length) (fun op => 1 + gridOperandCount op)
    (fun r hr => by interval_cases r <;> rfl) op

/-- R139: the bit instructions are the rows that need `BITOPS` = present. -/
theorem wf_grid (b : BitOps) (op b1 b2 : Byte) : (grid op b1 b2).wf b = (b == .present || !isBitOpcode op) :=
  eq_of_rows_eq (fun op => (grid op b1 b2).wf b) (fun op => b == .present || !isBitOpcode op)
    (fun r hr => by cases b <;> interval_cases r <;> rfl) op

/-- The operand bytes as the encoder writes them: the two halves of the word that the operand is (R134), but for the bit
branches, whose two operand bytes stand for themselves (R136), and for the shorter forms. -/
def gridOperands (op b1 b2 : Byte) : List Byte :=
  if gridOperandCount op = 2 ∧ isBitOpcode op = false then [lo (join b2 b1), hi (join b2 b1)]
  else [b1, b2].take (gridOperandCount op)

theorem gridOperands_eq_take (op b1 b2 : Byte) : gridOperands op b1 b2 = [b1, b2].take (gridOperandCount op) := by
  unfold gridOperands
  split
  next h => simp [h.1]
  next => rfl

theorem encode_grid (op b1 b2 : Byte) :
    encode (grid op b1 b2) = some (op :: [b1, b2].take (gridOperandCount op)) := by
  rw [← gridOperands_eq_take]
  exact eq_of_rows_eq (fun op => encode (grid op b1 b2)) (fun op => some (op :: gridOperands op b1 b2))
    (fun r hr => by interval_cases r <;> rfl) op

/-! ## What an opcode byte decodes to -/

theorem decodeOp_eq_grid (b : BitOps) (op b1 b2 : Byte) (h : b = .present ∨ isBitOpcode op = false) :
    decodeOp b op b1 b2 = grid op b1 b2 :=
  if_neg (by rintro ⟨rfl, hbit⟩; simp [hbit] at h)

theorem decodeOp_absent_bit (op b1 b2 : Byte) (h : isBitOpcode op = true) : decodeOp .absent op b1 b2 = .nopU1 op :=
  if_pos ⟨rfl, h⟩

/-- The number of operand bytes after opcode `op`: without `BITOPS` an opcode 0x?7 or 0x?F stands alone (R139, R142). -/
def operandCount (b : BitOps) (op : Byte) : Nat :=
  if b = .absent ∧ isBitOpcode op = true then 0 else gridOperandCount op

theorem operandCount_absent_bit (op : Byte) (h : isBitOpcode op = true) : operandCount .absent op = 0 :=
  if_pos ⟨rfl, h⟩

theorem operandCount_le_two (b : BitOps) (op : Byte) : operandCount b op ≤ 2 := by
  unfold operandCount
  split
  · omega
  · exact gridOperandCount_le_two op

theorem isU1Opcode_absent_of_bit (op : Byte) (h : isBitOpcode op = true) : isU1Opcode .absent op = true := by
  simp [isU1Opcode, h]

theorem length_decodeOp (b : BitOps) (op b1 b2 : Byte) : (decodeOp b op b1 b2).length = 1 + operandCount b op := by
  unfold decodeOp operandCount
  split
  · rfl
  · exact length_grid op b1 b2

theorem wf_decodeOp (b : BitOps) (op b1 b2 : Byte) : WellFormed b (decodeOp b op b1 b2) := by
  unfold decodeOp
  split
  next h => exact h.1 ▸ isU1Opcode_absent_of_bit op h.2
  next h =>
    rw [WellFormed, wf_grid]
    cases b with
    | present => rfl
    | absent => simpa using h

theorem encode_decodeOp (b : BitOps) (op b1 b2 : Byte) :
    encode (decodeOp b op b1 b2) = some (op :: [b1, b2].take (operandCount b op)) := by
  unfold decodeOp operandCount
  split
  next h => exact if_pos (isU1Opcode_absent_of_bit op h.2)
  next => exact encode_grid op b1 b2

/-! ## Decoding a list of bytes -/

/-- When a list decodes, and to what. -/
theorem decode_cons_eq_ok_iff (b : BitOps) (op : Byte) (tl rest : List Byte) (i : Instr) :
    decode b (op :: tl) = .ok (i, rest) ↔
      operandCount b op ≤ tl.length ∧ decodeOp b op (tl.getD 0 0) (tl.getD 1 0) = i ∧
        tl.drop (operandCount b op) = rest := by
  simp only [decode, length_decodeOp, Nat.add_sub_cancel_left]
  split
  next h => exact iff_of_false nofun (fun ⟨hle, _⟩ => by omega)
  next h =>
    have hle : operandCount b op ≤ tl.length := by omega
    simp [hle]

theorem take_getD_pair (tl : List Byte) (n : Nat) (hn : n ≤ 2) (hl : n ≤ tl.length) :
    [tl.getD 0 0, tl.getD 1 0].take n = tl.take n := by
  match n, tl with
  | 0, _ => rfl
  | 1, _ :: _ => rfl
  | 2, _ :: _ :: _ => rfl

/-- Settles O3: the instruction encodes to its opcode and the operand bytes that the decoder consumed. -/
theorem encodeOfDecode : Obligations.EncodeOfDecode := by
  intro b bs i rest h
  cases bs with
  | nil => cases h
  | cons op tl =>
    obtain ⟨hlen, rfl, rfl⟩ := (decode_cons_eq_ok_iff b op tl rest i).1 h
    refine ⟨wf_decodeOp b op _ _, _, encode_decodeOp b op _ _, ?_⟩
    rw [take_getD_pair tl _ (operandCount_le_two b op) hlen, List.cons_append, List.take_append_drop]

/-- The low three bits of a bit instruction's opcode are set. -/
theorem isBitOpcode_of_and (op : Byte) (h : op &&& 0x07 = 0x07) : isBitOpcode op = true := by
  have h7 : op.toNat &&& (2 ^ 3 - 1) = 7 := congrArg BitVec.toNat h
  rw [Nat.and_two_pow_sub_one_eq_mod] at h7
  exact beq_iff_eq.2 h7

/-- Settles O4: the operand bytes are counted from the opcode byte alone, and are at most two. -/
theorem everyOpcodeByteDecodes : Obligations.EveryOpcodeByteDecodes := by
  intro b op b1 b2
  have hle := operandCount_le_two b op
  have hlen := length_decodeOp b op
  constructor
  · refine ⟨_, _, (decode_cons_eq_ok_iff b op [b1, b2] _ _).2 ⟨hle, rfl, rfl⟩, ?_, ?_, fun c1 c2 => ?_⟩
    · rw [hlen]; omega
    · rw [hlen]; omega
    · rw [hlen, hlen]
  · intro h
    have hbit := isBitOpcode_of_and op h
    have hnone := operandCount_absent_bit op hbit
    exact (decode_cons_eq_ok_iff .absent op [b1, b2] _ _).2
      ⟨hnone ▸ Nat.zero_le _, decodeOp_absent_bit op _ _ hbit, hnone ▸ rfl⟩

/-- Settles O1, by evaluation of the decoder on each word. -/
theorem decodesWrittenWords : Obligations.DecodesWrittenWords :=
  ⟨rfl, rfl, rfl, rfl, rfl, rfl, rfl, rfl⟩

/-! ## Every well-formed instruction is decoded from its own bytes -/

/-- The instruction has bytes, as many as its length, and they decode to it before any further bytes. -/
def RoundTrips (b : BitOps) (i : Instr) : Prop :=
  ∃ bs, encode i = some bs ∧ bs.length = i.length ∧ ∀ rest, decode b (bs ++ rest) = .ok (i, rest)

/-- Enough that the encoder's opcode selects the instruction, given its operand bytes: no operand byte is read from `rest`. -/
theorem roundTrips_of_decodeOp {b : BitOps} {i : Instr} {op : Byte} {ops : List Byte} (henc : encode i = some (op :: ops))
    (hlen : i.length = 1 + ops.length)
    (hdec : ∀ rest, decodeOp b op ((ops ++ rest).getD 0 0) ((ops ++ rest).getD 1 0) = i) : RoundTrips b i := by
  have hcount : operandCount b op = ops.length := by
    have := length_decodeOp b op ((ops ++ []).getD 0 0) ((ops ++ []).getD 1 0)
    rw [hdec, hlen] at this
    omega
  refine ⟨op :: ops, henc, by rw [hlen, List.length_cons, Nat.add_comm], fun rest => ?_⟩
  refine (decode_cons_eq_ok_iff b op (ops ++ rest) rest i).2 ⟨?_, hdec rest, ?_⟩
  · rw [hcount, List.length_append]; exact Nat.le_add_right _ _
  · rw [hcount, List.drop_left]

theorem roundTrips_of_grid {b : BitOps} {i : Instr} {op : Byte} {ops : List Byte} (henc : encode i = some (op :: ops))
    (hlen : i.length = 1 + ops.length) (hbit : b = .present ∨ isBitOpcode op = false)
    (hgrid : ∀ rest, grid op ((ops ++ rest).getD 0 0) ((ops ++ rest).getD 1 0) = i) : RoundTrips b i :=
  roundTrips_of_decodeOp henc hlen (fun rest => (decodeOp_eq_grid b op _ _ hbit).trans (hgrid rest))

/-- An instruction whose operand is a word, low byte first (R134). -/
theorem roundTrips_word {b : BitOps} {op : Byte} {k : Word → Instr} {w : Word} (henc : encode (k w) = some [op, lo w, hi w])
    (hlen : (k w).length = 3) (hbit : isBitOpcode op = false) (hgrid : ∀ b1 b2, grid op b1 b2 = k (join b2 b1)) :
    RoundTrips b (k w) :=
  roundTrips_of_grid henc hlen (.inr hbit) (fun _ => (hgrid (lo w) (hi w)).trans (congrArg k (join_hi_lo w)))

/-- The memory operand of form `f` with operand bytes `b1` and `b2` (R131). -/
def Mode.form (f : Mode) (b1 b2 : Byte) : Mem :=
  match f with
  | .zp => .zp b1
  | .zpx => .zpx b1
  | .zpy => .zpy b1
  | .abs => .abs (join b2 b1)
  | .absx => .absx (join b2 b1)
  | .absy => .absy (join b2 b1)
  | .izx => .izx b1
  | .izy => .izy b1
  | .izp => .izp b1

theorem form_mode_bytes (m : Mem) (rest : List Byte) :
    m.mode.form ((m.bytes ++ rest).getD 0 0) ((m.bytes ++ rest).getD 1 0) = m := by
  cases m with
  | abs w | absx w | absy w => simp [Mem.mode, Mem.bytes, Mode.form]
  | zp nn | zpx nn | zpy nn | izx nn | izy nn | izp nn => rfl

/-- A form that the mnemonic has is found in its table, and gives the opcode. -/
theorem exists_encode_of_oneOf {m : Mem} {t : List (Mode × Byte)} (h : m.oneOf (t.map (·.1)) = true) :
    ∃ op, (m.mode, op) ∈ t ∧ m.encode t = some (op :: m.bytes) := by
  obtain ⟨e, he, hmode⟩ : ∃ e ∈ t, e.1 = m.mode := by simpa [Mem.oneOf] using h
  obtain ⟨⟨f, op⟩, hfind⟩ := Option.isSome_iff_exists.1
    (List.find?_isSome (p := fun e => e.1 == m.mode) |>.2 ⟨e, he, beq_iff_eq.2 hmode⟩)
  obtain rfl : f = m.mode := by simpa using List.find?_some hfind
  exact ⟨op, List.mem_of_find?_eq_some hfind, by simp [Mem.encode, Mem.opcode, hfind]⟩

/-- The opcodes of a mnemonic's memory forms `t` stand in the grid at the instructions `k` makes of those forms. -/
structure FormsInGrid (k : Mem → Instr) (t : List (Mode × Byte)) : Prop where
  noBit : ∀ e ∈ t, isBitOpcode e.2 = false
  agree : ∀ b1 b2, t.map (fun e => grid e.2 b1 b2) = t.map (fun e => k (e.1.form b1 b2))

theorem roundTrips_mem {b : BitOps} {k : Mem → Instr} {t : List (Mode × Byte)} {m : Mem}
    (henc : encode (k m) = m.encode t) (hlen : (k m).length = 1 + m.operandBytes) (ht : FormsInGrid k t)
    (hm : m.oneOf (t.map (·.1)) = true) :
    RoundTrips b (k m) := by
  obtain ⟨op, hmem, hop⟩ := exists_encode_of_oneOf hm
  have hgrid (b1 b2 : Byte) : grid op b1 b2 = k (m.mode.form b1 b2) := List.map_inj_left.1 (ht.agree b1 b2) _ hmem
  refine roundTrips_of_grid (henc.trans hop) ?_ (.inr (ht.noBit _ hmem)) (fun rest => ?_)
  · rw [hlen, Laws.Length.memBytes_length]
  · rw [hgrid, form_mode_bytes]

theorem roundTrips_src {b : BitOps} {k : Src → Instr} {imm : Byte} {t : List (Mode × Byte)} {src : Src}
    (henc : ∀ src, encode (k src) = src.encode imm t) (hlen : ∀ src, (k src).length = 1 + src.operandBytes)
    (hbit : isBitOpcode imm = false) (himm : ∀ b1 b2, grid imm b1 b2 = k (.imm b1))
    (ht : FormsInGrid (fun m => k (.mem m)) t) (hs : src.oneOf (t.map (·.1)) = true) : RoundTrips b (k src) := by
  cases src with
  | imm v => exact roundTrips_of_grid (henc _) (hlen _) (.inr hbit) (fun _ => himm _ _)
  | mem m => exact roundTrips_mem (k := fun m => k (.mem m)) (henc _) (hlen _) ht hs

theorem roundTrips_dst {b : BitOps} {k : Dst → Instr} {acc : Byte} {t : List (Mode × Byte)} {dst : Dst}
    (henc : ∀ dst, encode (k dst) = dst.encode acc t) (hlen : ∀ dst, (k dst).length = 1 + dst.operandBytes)
    (hbit : isBitOpcode acc = false) (hacc : ∀ b1 b2, grid acc b1 b2 = k .acc)
    (ht : FormsInGrid (fun m => k (.mem m)) t) (hd : dst.oneOf (t.map (·.1)) = true) : RoundTrips b (k dst) := by
  cases dst with
  | acc => exact roundTrips_of_grid (henc _) (hlen _) (.inr hbit) (fun _ => hacc _ _)
  | mem m => exact roundTrips_mem (k := fun m => k (.mem m)) (henc _) (hlen _) ht hd

/-! ### The unassigned opcodes (R142) -/

theorem grid_of_isU1Opcode (op b1 b2 : Byte) (h : isU1Opcode .present op = true) : grid op b1 b2 = .nopU1 op := by
  have hrows := eq_of_rows_eq (fun op => grid op b1 b2)
    (fun op => if isU1Opcode .present op then .nopU1 op else grid op b1 b2) (fun r hr => by interval_cases r <;> rfl) op
  exact hrows.trans (if_pos h)

theorem isU1Opcode_cases (b : BitOps) (op : Byte) (h : isU1Opcode b op = true) :
    (isU1Opcode .present op = true ∧ isBitOpcode op = false) ∨ (b = .absent ∧ isBitOpcode op = true) := by
  cases hbit : isBitOpcode op with
  | true =>
    have h7 : op.toNat % 8 = 7 := beq_iff_eq.1 hbit
    exact .inr ⟨by simpa [isU1Opcode, isBitOpcode, h7] using h, rfl⟩
  | false => exact .inl ⟨by simpa [isU1Opcode, hbit] using h, rfl⟩

theorem roundTrips_nopU1 (b : BitOps) (op : Byte) (h : isU1Opcode b op = true) : RoundTrips b (.nopU1 op) := by
  obtain ⟨hu1, hbit⟩ | ⟨rfl, hbit⟩ := isU1Opcode_cases b op h
  · have habs : isU1Opcode .absent op = true := by simpa [isU1Opcode, hbit] using hu1
    exact roundTrips_of_grid (ops := []) (if_pos habs) rfl (.inr hbit) (fun _ => grid_of_isU1Opcode op _ _ hu1)
  · exact roundTrips_of_decodeOp (ops := []) (if_pos h) rfl (fun _ => decodeOp_absent_bit op _ _ hbit)

theorem roundTrips_nopU2 (b : BitOps) (op ii : Byte) (h : u2Opcodes.contains op = true) : RoundTrips b (.nopU2 op ii) := by
  have hmem := List.contains_iff_mem.1 h
  have hgrid (b1 b2 : Byte) : u2Opcodes.map (grid · b1 b2) = u2Opcodes.map (.nopU2 · b1) := rfl
  have hbit : ∀ op ∈ u2Opcodes, isBitOpcode op = false := by decide
  exact roundTrips_of_grid (ops := [ii]) (if_pos h) rfl (.inr (hbit op hmem)) (fun _ => List.map_inj_left.1 (hgrid _ _) op hmem)

theorem roundTrips_nopU2zp (b : BitOps) (op nn : Byte) (h : u2zpOpcodes.contains op = true) :
    RoundTrips b (.nopU2zp op nn) := by
  have hmem := List.contains_iff_mem.1 h
  have hgrid (b1 b2 : Byte) : u2zpOpcodes.map (grid · b1 b2) = u2zpOpcodes.map (.nopU2zp · b1) := rfl
  have hbit : ∀ op ∈ u2zpOpcodes, isBitOpcode op = false := by decide
  exact roundTrips_of_grid (ops := [nn]) (if_pos h) rfl (.inr (hbit op hmem)) (fun _ => List.map_inj_left.1 (hgrid _ _) op hmem)

theorem roundTrips_nopU3 (b : BitOps) (op : Byte) (w : Word) (h : u3Opcodes.contains op = true) :
    RoundTrips b (.nopU3 op w) := by
  have hmem := List.contains_iff_mem.1 h
  have hgrid (b1 b2 : Byte) : u3Opcodes.map (grid · b1 b2) = u3Opcodes.map (.nopU3 · (join b2 b1)) := rfl
  have hbit : ∀ op ∈ u3Opcodes, isBitOpcode op = false := by decide
  exact roundTrips_word (if_pos h) rfl (hbit op hmem) (fun _ _ => List.map_inj_left.1 (hgrid _ _) op hmem)

theorem roundTrips_jmp (b : BitOps) (t : Target) : RoundTrips b (.jmp t) := by
  cases t with
  | abs w => exact roundTrips_word (k := fun w => .jmp (.abs w)) rfl rfl rfl (fun _ _ => rfl)
  | ind w => exact roundTrips_word (k := fun w => .jmp (.ind w)) rfl rfl rfl (fun _ _ => rfl)
  | iax w => exact roundTrips_word (k := fun w => .jmp (.iax w)) rfl rfl rfl (fun _ _ => rfl)

/-- Settles O2, mnemonic by mnemonic: the opcodes that the encoder writes stand in the grid at the same instruction. -/
theorem decodeOfEncode : Obligations.DecodeOfEncode := by
  intro b i h
  change RoundTrips b i
  cases i with
  | lda src | ldx src | ldy src | adc src | sbc src | cmp src | cpx src | cpy src | and src | ora src | eor src | bit src =>
    exact roundTrips_src (fun _ => rfl) (fun _ => rfl) rfl (fun _ _ => rfl) ⟨by decide, fun _ _ => rfl⟩ h
  | sta m | stx m | sty m | stz m | tsb m | trb m => exact roundTrips_mem rfl rfl ⟨by decide, fun _ _ => rfl⟩ h
  | inc dst | dec dst | asl dst | lsr dst | rol dst | ror dst =>
    exact roundTrips_dst (fun _ => rfl) (fun _ => rfl) rfl (fun _ _ => rfl) ⟨by decide, fun _ _ => rfl⟩ h
  | rmb0 nn | rmb1 nn | rmb2 nn | rmb3 nn | rmb4 nn | rmb5 nn | rmb6 nn | rmb7 nn
  | smb0 nn | smb1 nn | smb2 nn | smb3 nn | smb4 nn | smb5 nn | smb6 nn | smb7 nn =>
    exact roundTrips_of_grid rfl rfl (.inl (beq_iff_eq.1 h)) (fun _ => rfl)
  | bbr0 nn rr | bbr1 nn rr | bbr2 nn rr | bbr3 nn rr | bbr4 nn rr | bbr5 nn rr | bbr6 nn rr | bbr7 nn rr
  | bbs0 nn rr | bbs1 nn rr | bbs2 nn rr | bbs3 nn rr | bbs4 nn rr | bbs5 nn rr | bbs6 nn rr | bbs7 nn rr =>
    exact roundTrips_of_grid rfl rfl (.inl (beq_iff_eq.1 h)) (fun _ => rfl)
  | brk rr | bpl rr | bmi rr | bvc rr | bvs rr | bcc rr | bcs rr | bne rr | beq rr | bra rr =>
    exact roundTrips_of_grid rfl rfl (.inr rfl) (fun _ => rfl)
  | jmp t => exact roundTrips_jmp b t
  | jsr w => exact roundTrips_word rfl rfl rfl (fun _ _ => rfl)
  | nopU1 op => exact roundTrips_nopU1 b op h
  | nopU2 op ii => exact roundTrips_nopU2 b op ii h
  | nopU2zp op nn => exact roundTrips_nopU2zp b op nn h
  | nopU3 op w => exact roundTrips_nopU3 b op w h
  | tax | tay | txa | tya | tsx | txs | pha | php | phx | phy | pla | plp | plx | ply | inx | iny | dex | dey | rts | rti
  | clc | sec | cli | sei | cld | sed | clv | nop | wai | stp =>
    exact roundTrips_of_grid rfl rfl (.inr rfl) (fun _ => rfl)

end Sys2Proof

/-! SUPPORT. Proofs of the statements about stepping and addressing (40_addressing.md): the fetches of a step and the instruction
it runs, the steps of a run, and the effective addresses as natural numbers. -/

namespace Sys2Proof.Machine

/-! ## Fetches and the instruction they fetch (R160 to R163) -/

/-- The bus reads of `n` fetches from `pc` up, each with the byte the read bus shows in `m`. -/
def fetchReads (m : Banked) (pc : Word) (n : Nat) : List BusEvent :=
  (List.range n).map fun k => readEv m (pc + BitVec.ofNat 16 k)

theorem add_one_add_ofNat (pc : Word) (k : Nat) : pc + 1 + BitVec.ofNat 16 k = pc + BitVec.ofNat 16 (k + 1) := by
  rw [BitVec.add_assoc, BitVec.add_comm 1, BitVec.ofNat_add]
  rfl

/-- The fetch of `pc` leaves the bytes that the fetches after it read. -/
theorem fetchReads_succ (m : Banked) (pc : Word) (n : Nat) (hn : n ≤ 5) :
    fetchReads m pc (n + 1) = readEv m pc :: fetchReads ((readEv m pc).apply m) (pc + 1) n := by
  rw [fetchReads, List.range_succ_eq_map, List.map_cons, List.map_map, BitVec.add_zero, fetchReads]
  refine congrArg _ (List.map_congr_left fun k hk => ?_)
  have hkn : k < n := List.mem_range.1 hk
  have hread := readMap_after_fetch m pc (m.readMap pc) (k + 1) (by omega)
  rw [add_one_add_ofNat]
  exact congrArg (BusEvent.read _) hread.symm

/-- Up to six fetches in a row, as bus reads of the starting state. -/
theorem fetchBytes_eq (n : Nat) (s : State) (hn : n ≤ 6) :
    fetchBytes n s = { s.afterBus (fetchReads s.mem s.pc n) with pc := s.pc + BitVec.ofNat 16 n } := by
  induction n generalizing s with
  | zero => simp [fetchBytes, fetchReads]
  | succ n ih =>
    rw [fetchBytes, ih _ (by omega), fetchReads_succ _ _ _ (by omega), fetch_eq, ← add_one_add_ofNat]
    simp [State.afterBus, State.setPc]

theorem fetchReads_eq_take (m : Banked) (pc : Word) (n : Nat) (hn : n ≤ 3) :
    fetchReads m pc n = [readEv m pc, readEv m (pc + 1), readEv m (pc + 2)].take n := by
  have hall : [readEv m pc, readEv m (pc + 1), readEv m (pc + 2)] = fetchReads m pc 3 := by
    simp [fetchReads, List.range_succ]
  rw [hall, fetchReads, fetchReads, ← List.map_take, List.take_range, Nat.min_eq_left hn]

theorem writtenBy_fetchReads (m : Banked) (pc : Word) (n : Nat) : writtenBy (fetchReads m pc n) = [] := by
  unfold fetchReads
  induction List.range n with
  | nil => rfl
  | cons k ks ih => exact ih

/-- Settles O6: a fetch leaves the bytes that the next ones read, and reads change no store. -/
theorem fetchesReadTheDecodedBytes : Obligations.FetchesReadTheDecodedBytes := by
  intro s n hn
  have hfetch := fetchBytes_eq n s (by omega)
  refine ⟨fetchReads_eq_take s.mem s.pc n hn ▸ hfetch, ?_⟩
  rw [hfetch]
  exact sameStores_replay _ _ (writtenBy_fetchReads _ _ _)

/-- What the three bytes at PC decode to is the instruction that the step runs. -/
theorem instrAt_of_decode (s : State) (i : Instr) (rest : List Byte)
    (h : decode s.cfg.bitops [s.mem.readMap s.pc, s.mem.readMap (s.pc + 1), s.mem.readMap (s.pc + 2)] = .ok (i, rest)) :
    instrAt s = i := by
  obtain ⟨-, hi, -⟩ := (decode_cons_eq_ok_iff _ _ _ _ _).1 h
  exact hi

/-- BRK's signature byte is never read, and a bit branch fetches its displacement itself (R178). -/
theorem fetched_eq_length (i : Instr) (hbrk : ∀ ss, i ≠ .brk ss)
    (hbit : ∀ n nn rr, i ≠ bbrAt n nn rr ∧ i ≠ bbsAt n nn rr) : i.fetched = i.length := by
  cases i with
  | brk ss => exact absurd rfl (hbrk ss)
  | bbr0 nn rr | bbr1 nn rr | bbr2 nn rr | bbr3 nn rr | bbr4 nn rr | bbr5 nn rr | bbr6 nn rr | bbr7 nn rr =>
    exact absurd (fun n => (hbit n nn rr).1) (by simp [bbrAt, Fin.forall_fin_succ])
  | bbs0 nn rr | bbs1 nn rr | bbs2 nn rr | bbs3 nn rr | bbs4 nn rr | bbs5 nn rr | bbs6 nn rr | bbs7 nn rr =>
    exact absurd (fun n => (hbit n nn rr).2) (by simp [bbsAt, Fin.forall_fin_succ])
  | _ => rfl

theorem fetched_bitBranch (n : Fin 8) (nn rr : Byte) : (bbrAt n nn rr).fetched = 2 ∧ (bbsAt n nn rr).fetched = 2 := by
  fin_cases n <;> exact ⟨rfl, rfl⟩

/-- Settles O5: a ready state runs the instruction at PC, which the decoder reads from the same three bytes. -/
theorem stepRunsTheDecodedInstruction : Obligations.StepRunsTheDecodedInstruction := by
  refine ⟨fun s i rest hready hdec => ?_, fun _ => rfl, fetched_bitBranch, fetched_eq_length⟩
  rw [step_of_ready s hready, runInstr, instrAt_of_decode s i rest hdec]
  rfl

/-- Settles O10: outside Running a step only clears the outputs. -/
theorem waitingAndStoppedAreTerminal : Obligations.WaitingAndStoppedAreTerminal :=
  step_of_not_running

/-! ## run(n) (R180) -/

theorem run_succ_of_next (n : Nat) {s t : State} (h : step s = .next t) :
    run (n + 1) s = { run n t with cycles := t.cycles + (run n t).cycles } := by
  rw [run, h]

theorem run_succ_of_fault (n : Nat) {s : State} {r : Fault} (h : step s = .fault r) :
    run (n + 1) s = ⟨0, .fault r, s.after (.fault r)⟩ := by
  rw [run, h]

theorem run_succ_of_refused (n : Nat) {s : State} {r : Refusal} (h : step s = .refused r) :
    run (n + 1) s = ⟨0, .refused r, s.after (.refused r)⟩ := by
  rw [run, h]

/-- Only the refusal of an unassigned opcode leaves a mark. -/
theorem State.after_refused_of_ne_undocumented (s : State) (r : Refusal) (h : ∀ op a, r ≠ .undocumented op a) :
    s.after (.refused r) = s := by
  cases r with
  | undocumented op a => exact absurd rfl (h op a)
  | notModelled _ => rfl
  | notReset => rfl

theorem run_add_of_done (m n : Nat) (s : State) (h : (run m s).ending = .done) :
    run (m + n) s =
      { run n (run m s).state with cycles := (run m s).cycles + (run n (run m s).state).cycles } := by
  induction m generalizing s with
  | zero => simp [run]
  | succ m ih =>
    rw [Nat.succ_add]
    cases hs : step s with
    | next t =>
      rw [run_succ_of_next m hs] at h ⊢
      rw [run_succ_of_next (m + n) hs, ih t h, Nat.add_assoc]
    | fault r => rw [run_succ_of_fault m hs] at h; cases h
    | refused r => rw [run_succ_of_refused m hs] at h; cases h

theorem run_add_of_stopped (m n : Nat) (s : State) (h : (run m s).ending ≠ .done) : run (m + n) s = run m s := by
  induction m generalizing s with
  | zero => exact absurd rfl h
  | succ m ih =>
    rw [Nat.succ_add]
    cases hs : step s with
    | next t =>
      rw [run_succ_of_next m hs] at h ⊢
      rw [run_succ_of_next (m + n) hs, ih t h]
    | fault r => rw [run_succ_of_fault _ hs, run_succ_of_fault _ hs]
    | refused r => rw [run_succ_of_refused _ hs, run_succ_of_refused _ hs]

/-- Settles O30: the first step decides, and both sums are inductions over the first `m` steps. -/
theorem runIsTheSumOfItsSteps : Obligations.RunIsTheSumOfItsSteps := by
  refine ⟨fun _ => rfl, fun n _ _ => run_succ_of_next n, fun n _ _ => run_succ_of_fault n,
    fun n _ _ _ => run_succ_of_refused n, fun n s r hr h => ?_, run_add_of_done, run_add_of_stopped⟩
  rw [run_succ_of_refused n h, s.after_refused_of_ne_undocumented r hr]

/-! ## The addressing rules in numbers (R164 to R174) -/

/-- The byte of page zero at `z` modulo 256, as a number. -/
def zpByte (m : Banked) (z : Nat) : Nat := (Memory.read m.ram (z % 256)).toNat

theorem zpByte_lt (m : Banked) (z : Nat) : zpByte m z < 256 := (Memory.read m.ram (z % 256)).isLt

theorem readMap_zext_toNat (m : Banked) (b : Byte) (z : Nat) (h : b.toNat = z % 256) :
    (m.readMap (zext b)).toNat = zpByte m z := by
  rw [readMap_low _ _ (by simp [bank_zext]), zext_toNat, h, zpByte]

/-- The pointer at `b`, which stands for `z` modulo 256: its high byte is at `z + 1`, also modulo 256 (R166). -/
theorem zpPointer_toNat (m : Banked) (b : Byte) (z : Nat) (h : b.toNat = z % 256) :
    (zpPointer m b).toNat = zpByte m z + 256 * zpByte m (z + 1) := by
  have hnext : (b + 1).toNat = (z + 1) % 256 := by rw [BitVec.toNat_add, h, Nat.mod_add_mod]; rfl
  rw [zpPointer, join_toNat, readMap_zext_toNat m b z h, readMap_zext_toNat m (b + 1) (z + 1) hnext]
  omega

theorem wordAt_toNat (m : Banked) (a : Word) :
    (wordAt m a).toNat = (m.readMap a).toNat + 256 * (m.readMap (a + 1)).toNat := by
  rw [wordAt, join_toNat]
  omega

theorem zext_add_toNat (b r : Byte) : (zext (b + r)).toNat = (b.toNat + r.toNat) % 256 := by
  rw [zext_toNat, BitVec.toNat_add]

theorem add_zext_eq_ofNat (w : Word) (r : Byte) : w + zext r = BitVec.ofNat 16 (w.toNat + r.toNat) := by
  apply BitVec.eq_of_toNat_eq
  rw [BitVec.toNat_add, zext_toNat, BitVec.toNat_ofNat]

theorem add_zext_toNat (w : Word) (r : Byte) : (w + zext r).toNat = (w.toNat + r.toNat) % 65536 := by
  rw [add_zext_eq_ofNat, BitVec.toNat_ofNat]

theorem carries_iff (w : Word) (r : Byte) : carries w r = true ↔ w.toNat % 256 + r.toNat > 255 := by
  rw [carries, decide_eq_true_iff, lo_toNat]

/-- The un-carried address keeps the page of the base (R168, R170). -/
theorem uncarried_toNat (w : Word) (r : Byte) :
    (join (hi w) (lo w + r)).toNat = w.toNat / 256 * 256 + (w.toNat + r.toNat) % 256 := by
  rw [join_toNat, hi_toNat, BitVec.toNat_add, lo_toNat, Nat.mod_add_mod]

/-- The low byte of a pointer is its value modulo 256. -/
theorem carries_zpPointer_iff (m : Banked) (b r : Byte) (z : Nat) (h : b.toNat = z % 256) :
    carries (zpPointer m b) r = true ↔ zpByte m z + r.toNat > 255 := by
  have hlow := zpByte_lt m z
  rw [carries_iff, zpPointer_toNat m b z h]
  omega

theorem uncarried_zpPointer_toNat (m : Banked) (b r : Byte) (z : Nat) (h : b.toNat = z % 256) :
    (join (hi (zpPointer m b)) (lo (zpPointer m b) + r)).toNat = 256 * zpByte m (z + 1) + (zpByte m z + r.toNat) % 256 := by
  have hlow := zpByte_lt m z
  rw [uncarried_toNat, zpPointer_toNat m b z h]
  omega

/-- The word that JMP (abs,X) jumps to, the index added modulo 2^16 (R174). -/
theorem wordAt_add_zext_toNat (m : Banked) (w : Word) (r : Byte) :
    (wordAt m (w + zext r)).toNat = (m.readMap (BitVec.ofNat 16 (w.toNat + r.toNat))).toNat +
      256 * (m.readMap (BitVec.ofNat 16 (w.toNat + r.toNat + 1))).toNat := by
  rw [wordAt_toNat, add_zext_eq_ofNat, BitVec.ofNat_add _ 1]
  rfl

/-- Settles O33, form by form, from the addresses that the starting state gives. -/
theorem addressingModeArithmetic : Obligations.AddressingModeArithmetic := by
  intro s nn w
  have hnn : nn.toNat = nn.toNat % 256 := (Nat.mod_eq_of_lt nn.isLt).symm
  have hptr := zpPointer_toNat s.mem nn nn.toNat hnn
  have hptrX := zpPointer_toNat s.mem _ _ (BitVec.toNat_add nn s.x)
  dsimp only
  simp only [resolve_eq, resolveTarget_eq, eaOf, ← zext_eq_join]
  exact ⟨zext_toNat nn, zext_add_toNat nn s.x, zext_add_toNat nn s.y, trivial, add_zext_toNat w s.x, add_zext_toNat w s.y,
    hptrX, hptr ▸ add_zext_toNat _ s.y, hptr,
    carries_iff w s.x, carries_iff w s.y, carries_zpPointer_iff _ _ _ _ hnn, rfl, rfl, rfl, rfl, rfl, rfl,
    uncarried_toNat w s.x, uncarried_toNat w s.y, uncarried_zpPointer_toNat _ _ _ _ hnn,
    trivial, wordAt_toNat s.mem w, wordAt_add_zext_toNat s.mem w s.x, trivial, trivial, carries_iff w s.x⟩

end Sys2Proof.Machine

/-! SUPPORT. Proofs of the statements about loads, stores and transfers (41_load_store_transfer.md): one rule for the reading class,
one for the storing class and one for the instructions on registers, each from the law of its shared operation. -/

namespace Sys2Proof.Machine

/-! ## Flags and counts in the vocabulary of the statements -/

/-- A write of P keeps the flags that the value written keeps. -/
theorem flagsKeptBut_forceU {fs : List Flag} {p q : Byte} (h : ∀ f, f ∉ fs → getF f q = getF f p) :
    FlagsKeptBut fs p (forceU q) :=
  ⟨getF_u_forceU q, fun f hf hu => by rw [getF_forceU, if_neg hu, h f hf]⟩

theorem nzOf_forceU_setNZ (v p : Byte) : NZOf v (forceU (setNZ v p)) := by
  simp [NZOf, getF_forceU, getF_setNZ, Bool.beq_eq_decide_eq]

theorem flagsKeptBut_forceU_setNZ (v p : Byte) : FlagsKeptBut [.n, .z] p (forceU (setNZ v p)) :=
  flagsKeptBut_forceU fun f hf => by
    obtain ⟨hn, hz⟩ : f ≠ .n ∧ f ≠ .z := by simpa using hf
    rw [getF_setNZ, if_neg hz, if_neg hn]

theorem srcCycles_eq_readCount (src : Src) : srcCycles src = readCount src := by
  cases src with
  | imm v => rfl
  | mem m => cases m <;> rfl

theorem writeCycles_eq_writeCount (m : Mem) : writeCycles m = writeCount m := by cases m <;> rfl

/-! ## The reading class (R200 to R202) -/

/-- An instruction of the read class whose rule, after the bus reads, writes `q` to P and the fields of `put`. -/
theorem readsAndPuts_of_readInstr {i : Instr} {src : Src} {f put : Byte → State → State} {flags : Byte → Byte → Prop}
    {s : State} {q : Byte} (hexec : exec i s = readInstr i src f s) (hcount : baseCycles i = srcCycles src)
    (hf : f (operandOf src s) (s.afterBus (srcAccesses src s)) =
      { put (operandOf src s) (s.afterBus (srcAccesses src s)) with p := q })
    (hflags : flags (operandOf src s) q)
    (hmem : (put (operandOf src s) (s.afterBus (srcAccesses src s))).mem = (s.afterBus (srcAccesses src s)).mem) :
    ReadsAndPuts i src put flags s := by
  rw [readInstr_eq, hcount, srcCycles_eq_readCount, hf] at hexec
  refine ⟨_, hexec, rfl, hflags, ?_⟩
  dsimp only
  rw [hmem]
  exact sameStores_replay _ _ (writtenBy_srcAccesses src s)

/-- A load: the operand goes to the fields of `put`, and N and Z follow it. -/
theorem readsAndPuts_of_load {i : Instr} {src : Src} {put : Byte → State → State} {s : State}
    (hexec : exec i s = readInstr i src (fun v t => (put v t).setNZ v) s) (hcount : baseCycles i = srcCycles src)
    (hp : ∀ v t, (put v t).p = t.p) (hmem : ∀ v t, (put v t).mem = t.mem) :
    ReadsAndPuts i src put (fun v q => NZOf v q ∧ FlagsKeptBut [.n, .z] s.p q) s := by
  refine readsAndPuts_of_readInstr hexec hcount rfl ?_ (hmem _ _)
  rw [hp]
  exact ⟨nzOf_forceU_setNZ _ s.p, flagsKeptBut_forceU_setNZ _ s.p⟩

/-- Settles O34: the three loads differ only in the register that they write. -/
theorem loadsPutTheOperand : Obligations.LoadsPutTheOperand := fun _ _ =>
  ⟨readsAndPuts_of_load rfl rfl (fun _ _ => rfl) (fun _ _ => rfl),
    readsAndPuts_of_load rfl rfl (fun _ _ => rfl) (fun _ _ => rfl),
    readsAndPuts_of_load rfl rfl (fun _ _ => rfl) (fun _ _ => rfl)⟩

/-! ## The storing class (R203 to R206) -/

@[simp] theorem resolve_addr (m : Mem) (s : State) : (resolve m s).1.addr = eaOf m s := by rw [resolve_eq]

/-- The pointer reads of a store leave the memory model alone, so its write is the only access that counts. -/
theorem replay_writeAccesses (m : Mem) (v : Byte) (s : State) :
    replay (writeAccesses m v s) s.mem = (BusEvent.write (eaOf m s) v).apply s.mem := by
  rw [writeAccesses, replay_append, replay_pointerReads, replay_cons, replay_nil]

/-- The byte of a write access in windows 0 to 12 is in `ram` afterwards. -/
theorem read_ram_apply_write (m : Banked) (a : Word) (v : Byte) (hwf : m.wf = true) (hlow : bank a ≤ 12) :
    Memory.read ((BusEvent.write a v).apply m).ram a.toNat = v := by
  obtain ⟨hram, -, -⟩ := apply_write_stores a v m
  obtain ⟨hput, -, -, -⟩ := putsByte_writeMap m a v hwf
  rw [hram, hput (.inl hlow)]

/-- A write access to windows 13 to 15 goes to the sink while LC write is disabled (R89). -/
theorem sameStores_apply_write_of_writeDisabled (m : Banked) (a : Word) (v : Byte) (hw : 13 ≤ bank a)
    (h : m.lc.writeEnabled = false) : SameStores m ((BusEvent.write a v).apply m) := by
  have hmap : SameStores (m.writeMap a v) ((BusEvent.write a v).apply m) := apply_write_stores a v m
  rwa [writeMap_writeDisabled m a v hw h] at hmap

/-- An instruction of the write class. -/
theorem stores_of_writeMem {i : Instr} {m : Mem} {v : Byte} {s : State} (hexec : exec i s = finish i (writeMem m v s))
    (hcount : baseCycles i = writeCycles m) : Stores i m v s := by
  rw [finish_writeMem_eq, hcount, writeCycles_eq_writeCount] at hexec
  refine ⟨_, hexec, rfl, ?_⟩
  simp only [resolve_addr, State.afterBus_mem, replay_writeAccesses]
  exact ⟨storesOnlyAt_apply_write _ _ _, read_ram_apply_write _ _ _, sameStores_apply_write_of_writeDisabled _ _ _⟩

/-- Settles O35: the four stores are of the write class. -/
theorem storesWriteTheEffectiveAddress : Obligations.StoresWriteTheEffectiveAddress := fun _ _ =>
  ⟨stores_of_writeMem rfl rfl, stores_of_writeMem rfl rfl, stores_of_writeMem rfl rfl, stores_of_writeMem rfl rfl⟩

/-! ## Register instructions (R207 to R212, R313 to R316) -/

/-- An instruction of two cycles that writes the fields of `put` and sets N and Z. -/
theorem putsNZ_of_finish {i : Instr} {put : State → State} {v : Byte} {s : State}
    (hexec : exec i s = finish i ((put s).setNZ v)) (hcount : baseCycles i = 2) (hp : (put s).p = s.p) :
    PutsNZ i put v s := by
  rw [finish_eq, hcount] at hexec
  refine ⟨_, hexec, rfl, ?_⟩
  dsimp only
  rw [State.setNZ_p, hp]
  exact ⟨nzOf_forceU_setNZ v s.p, flagsKeptBut_forceU_setNZ v s.p⟩

/-- Settles O36: all but TXS write one register and set N and Z; TXS writes SP only. -/
theorem registerInstructions : Obligations.RegisterInstructions := fun _ =>
  ⟨putsNZ_of_finish rfl rfl rfl, putsNZ_of_finish rfl rfl rfl, putsNZ_of_finish rfl rfl rfl, putsNZ_of_finish rfl rfl rfl,
    putsNZ_of_finish rfl rfl rfl, putsNZ_of_finish rfl rfl rfl, putsNZ_of_finish rfl rfl rfl, putsNZ_of_finish rfl rfl rfl,
    putsNZ_of_finish rfl rfl rfl, rfl⟩

end Sys2Proof.Machine

/-! SUPPORT. Proofs of the statements about the stack (42_stack.md): one rule for the pushes and one for the pulls, each from the
law of its shared operation. -/

namespace Sys2Proof.Machine

/-! ## Pushes (R230, R232 to R235) -/

/-- An instruction of three cycles whose rule is one push. -/
theorem pushesByte_of_push {i : Instr} {v : Byte} {s : State} (hexec : exec i s = finish i (push v s))
    (hcount : baseCycles i = 3) : PushesByte i v s := by
  rw [push_eq, finish_eq, hcount] at hexec
  have hlow : bank (stackAddr s.sp) ≤ 12 := by simp [bank_stackAddr]
  refine ⟨_, hexec, rfl, storesOnlyAt_apply_write _ _ _, fun hwf => ?_⟩
  rw [← stackAddr_toNat]
  exact read_ram_apply_write _ _ _ hwf hlow

/-- Settles O37: the four pushes differ only in the byte that they push. -/
theorem pushesGoToTheStackPage : Obligations.PushesGoToTheStackPage := fun _ =>
  ⟨pushesByte_of_push rfl rfl, pushesByte_of_push rfl rfl, pushesByte_of_push rfl rfl, pushesByte_of_push rfl rfl⟩

/-! ## Pulls (R231, R236 to R239) -/

/-- Page 1 is read from `ram`. -/
theorem readMap_stackAddr (m : Banked) (sp : Byte) : m.readMap (stackAddr sp) = Memory.read m.ram (0x100 + sp.toNat) := by
  rw [readMap_low _ _ (by simp [bank_stackAddr]), stackAddr_toNat]

/-- A pull returns the byte above SP, and reading it is its one bus access. -/
theorem pull_eq_topOfStack (s : State) : pull s =
    (topOfStack s, (s.afterBus [.read (stackAddr (s.sp + 1)) (topOfStack s)]).setSp (s.sp + 1)) := by
  rw [pull_eq, readEv, readMap_stackAddr, topOfStack]

/-- An instruction of four cycles whose rule, after one pull, writes the fields of `put` and makes P of the byte and the old P
by `q`. -/
theorem pullsByte_of_pull {i : Instr} {f put : Byte → State → State} {flags : Byte → Byte → Prop} {s : State}
    (q : Byte → Byte → Byte) (hexec : exec i s = finish i (f (pull s).1 (pull s).2)) (hcount : baseCycles i = 4)
    (hf : ∀ v sp t, f v (t.setSp sp) = { put v t with sp := sp, p := q v t.p })
    (hflags : ∀ v, flags v (q v s.p)) (hmem : ∀ v t, (put v t).mem = t.mem) : PullsByte i put flags s := by
  rw [pull_eq_topOfStack, hf (topOfStack s), finish_eq, hcount] at hexec
  exact ⟨_, hexec, rfl, hflags _, (hmem _ _).trans (apply_stackRead s.mem (s.sp + 1) (topOfStack s))⟩

/-- A pull into a register: the byte goes to the field of `put`, and N and Z follow it. -/
theorem pullsByte_of_pullRegister {i : Instr} {put : Byte → State → State} {s : State}
    (hexec : exec i s = finish i ((put (pull s).1 (pull s).2).setNZ (pull s).1)) (hcount : baseCycles i = 4)
    (hput : ∀ v sp t, (put v (t.setSp sp)).setNZ v = { put v t with sp := sp, p := forceU (setNZ v t.p) })
    (hmem : ∀ v t, (put v t).mem = t.mem) :
    PullsByte i put (fun v q => NZOf v q ∧ FlagsKeptBut [.n, .z] s.p q) s :=
  pullsByte_of_pull (f := fun v t => (put v t).setNZ v) (fun v p => forceU (setNZ v p)) hexec hcount hput
    (fun v => ⟨nzOf_forceU_setNZ v s.p, flagsKeptBut_forceU_setNZ v s.p⟩) hmem

/-- What PLP makes of the byte pulled: B is 0, U is 1, and every other flag is the byte's (R237). -/
theorem getF_forceU_pulledP (v : Byte) : getF .b (forceU (pulledP v)) = false ∧ getF .u (forceU (pulledP v)) = true ∧
    ∀ f, f ≠ .b → f ≠ .u → getF f (forceU (pulledP v)) = getF f v :=
  ⟨by rw [getF_b_forceU, getF_pulledP, if_pos rfl], getF_u_forceU _,
    fun f hb hu => by rw [getF_forceU, if_neg hu, getF_pulledP, if_neg hb, if_neg hu]⟩

/-- Settles O38: PLA, PLX and PLY differ only in the register that they write; PLP writes P from the byte pulled. -/
theorem pullsComeFromTheStackPage : Obligations.PullsComeFromTheStackPage := fun _ =>
  ⟨pullsByte_of_pullRegister rfl rfl (fun _ _ _ => rfl) (fun _ _ => rfl),
    pullsByte_of_pullRegister rfl rfl (fun _ _ _ => rfl) (fun _ _ => rfl),
    pullsByte_of_pullRegister rfl rfl (fun _ _ _ => rfl) (fun _ _ => rfl),
    pullsByte_of_pull (f := fun v t => t.setP (pulledP v)) (fun v _ => forceU (pulledP v)) rfl rfl (fun _ _ _ => rfl)
      getF_forceU_pulledP (fun _ _ => rfl)⟩

end Sys2Proof.Machine

/-! SUPPORT. Proofs of the statements about arithmetic and compare (43_arith.md): the flags that ADC, SBC and the compares write, the
binary algorithms in integers, and the decimal ones on bytes of two decimal digits. -/

namespace Sys2Proof.Machine

/-! ## ADC and SBC (R250, R253) -/

theorem nzOf_forceU_aluP (r : Alu) (p : Byte) : NZOf r.val (forceU (aluP r p)) := nzOf_forceU_setNZ r.val _

theorem getF_c_forceU_aluP (r : Alu) (p : Byte) : getF .c (forceU (aluP r p)) = r.carry := by
  simp [getF_forceU, getF_aluP]

theorem getF_v_forceU_aluP (r : Alu) (p : Byte) : getF .v (forceU (aluP r p)) = r.overflow := by
  simp [getF_forceU, getF_aluP]

theorem flagsKeptBut_forceU_aluP (r : Alu) (p : Byte) : FlagsKeptBut [.n, .v, .z, .c] p (forceU (aluP r p)) :=
  flagsKeptBut_forceU fun f hf => by
    obtain ⟨hn, hv, hz, hc⟩ : f ≠ .n ∧ f ≠ .v ∧ f ≠ .z ∧ f ≠ .c := by simpa using hf
    rw [getF_aluP, if_neg hz, if_neg hn, if_neg hv, if_neg hc]

/-- An instruction whose rule is the one that ADC and SBC share. -/
theorem puts_of_arithInstr {i : Instr} {src : Src} {alu : Byte → Byte → Byte → Alu} {s : State}
    (hexec : exec i s = arithInstr i src alu s) (hcount : baseCycles i = srcCycles src) :
    let r := alu s.p s.a (operandOf src s)
    ∃ t, exec i s = .next t ∧
      t = { s.afterBus (srcAccesses src s) with
            a := r.val, p := t.p
            cycles := readCount src + (if srcCrosses src s then 1 else 0) + if getF .d s.p then 1 else 0 } ∧
      getF .c t.p = r.carry ∧ getF .v t.p = r.overflow ∧ NZOf r.val t.p ∧ FlagsKeptBut [.n, .v, .z, .c] s.p t.p ∧
      SameStores s.mem t.mem := by
  rw [arithInstr_eq, hcount, srcCycles_eq_readCount] at hexec
  exact ⟨_, hexec, rfl, getF_c_forceU_aluP _ s.p, getF_v_forceU_aluP _ s.p, nzOf_forceU_aluP _ s.p,
    flagsKeptBut_forceU_aluP _ s.p, sameStores_replay _ _ (writtenBy_srcAccesses src s)⟩

/-- Settles O39: ADC and SBC differ only in the algorithm, which `addWith` and `subWith` choose by D. -/
theorem addAndSubtractPutResultAndFlags : Obligations.AddAndSubtractPutResultAndFlags := fun _ _ =>
  ⟨puts_of_arithInstr (alu := addWith) rfl rfl, puts_of_arithInstr (alu := subWith) rfl rfl⟩

/-! ## The compares (R256 to R259) -/

theorem flagsKeptBut_forceU_compareP (r m p : Byte) : FlagsKeptBut [.n, .z, .c] p (forceU (compareP r m p)) :=
  flagsKeptBut_forceU fun f hf => by
    obtain ⟨hn, hz, hc⟩ : f ≠ .n ∧ f ≠ .z ∧ f ≠ .c := by simpa using hf
    rw [getF_compareP, if_neg hz, if_neg hn, if_neg hc]

/-- The difference modulo 256 is zero only between equal bytes. -/
theorem sub_beq_zero (r m : Byte) : (r - m == 0#8) = decide (r = m) := by
  rw [Bool.beq_eq_decide_eq, decide_eq_decide]
  bv_omega

theorem getF_forceU_compareP (r m p : Byte) :
    getF .c (forceU (compareP r m p)) = decide (m.toNat ≤ r.toNat) ∧ getF .z (forceU (compareP r m p)) = decide (r = m) ∧
      getF .n (forceU (compareP r m p)) = (r - m).getLsbD 7 := by
  simp [getF_forceU, getF_compareP, sub_beq_zero]

/-- A compare with the register whose value is `r`. -/
theorem readsAndPuts_of_compare {i : Instr} {src : Src} {reg : State → Byte} {s : State} {r : Byte}
    (hexec : exec i s = readInstr i src (fun v t => t.setP (compareP (reg t) v t.p)) s)
    (hcount : baseCycles i = srcCycles src) (hreg : ∀ es, reg (s.afterBus es) = r) :
    ReadsAndPuts i src (fun _ t => t) (fun v q => getF .c q = decide (v.toNat ≤ r.toNat) ∧ getF .z q = decide (r = v) ∧
      getF .n q = (r - v).getLsbD 7 ∧ FlagsKeptBut [.n, .z, .c] s.p q) s := by
  refine readsAndPuts_of_readInstr hexec hcount rfl ?_ rfl
  obtain ⟨hc, hz, hn⟩ := getF_forceU_compareP r (operandOf src s) s.p
  rw [hreg]
  exact ⟨hc, hz, hn, flagsKeptBut_forceU_compareP r _ s.p⟩

/-- Settles O43: the compares differ only in the register. -/
theorem comparesSetOnlyFlags : Obligations.ComparesSetOnlyFlags := fun _ _ =>
  ⟨readsAndPuts_of_compare (reg := State.a) rfl rfl fun _ => rfl, readsAndPuts_of_compare (reg := State.x) rfl rfl fun _ => rfl,
    readsAndPuts_of_compare (reg := State.y) rfl rfl fun _ => rfl⟩

/-! ## The binary algorithms in integers (R251, R254) -/

theorem getLsbD_seven (b : Byte) : b.getLsbD 7 = decide (128 ≤ b.toNat) := b.msb_eq_decide

/-- The signed reading of a byte. -/
theorem sgn_toNat (b : Byte) : sgn b.toNat = b.toInt := by
  have := b.isLt
  rw [BitVec.toInt_eq_toNat_cond, sgn]
  split <;> split <;> omega

/-- Both operands have one sign and the result has the other (R251). -/
theorem addBinary_overflow_iff (a m : Byte) (c : Bool) :
    (addBinary a m c).overflow = true ↔ (128 ≤ a.toNat ↔ 128 ≤ m.toNat) ∧
      ¬ (128 ≤ a.toNat ↔ 128 ≤ (a.toNat + m.toNat + c.toNat) % 256) := by
  simp only [addBinary, BitVec.getLsbD_and, BitVec.getLsbD_not, BitVec.getLsbD_xor]
  rw [getLsbD_seven, getLsbD_seven, getLsbD_seven, BitVec.toNat_ofNat]
  simp

/-- The binary sum, its carry and its signed overflow (R251, R261). -/
theorem addBinary_exact (a m : Byte) (c : Bool) :
    (addBinary a m c).val.toNat = (a.toNat + m.toNat + c.toNat) % 256 ∧
    ((addBinary a m c).carry = true ↔ a.toNat + m.toNat + c.toNat > 255) ∧
    ((addBinary a m c).overflow = true ↔
      a.toInt + m.toInt + (c.toNat : Int) < -128 ∨ a.toInt + m.toInt + (c.toNat : Int) > 127) := by
  refine ⟨BitVec.toNat_ofNat _ _, decide_eq_true_iff, ?_⟩
  have ha := a.isLt
  have hm := m.isLt
  have hc := c.toNat_le
  rw [addBinary_overflow_iff, ← sgn_toNat, ← sgn_toNat, sgn, sgn]
  split_ifs <;> omega

/-- The binary subtract adds the complement (R254). -/
theorem subBinary_eq_addBinary_not (a m : Byte) (c : Bool) : subBinary a m c = addBinary a (~~~m) c := by
  have hnot : m ^^^ 0xFF = ~~~m := BitVec.xor_allOnes
  have hsign : ~~~(a ^^^ ~~~m) = a ^^^ m := by rw [← BitVec.not_xor_right, BitVec.not_not]
  rw [subBinary, addBinary, hnot, hsign]

theorem toNat_not_byte (m : Byte) : (~~~m).toNat = 255 - m.toNat := BitVec.toNat_not

theorem toInt_not_byte (m : Byte) : (~~~m).toInt = -m.toInt - 1 := by
  have := m.isLt
  rw [← sgn_toNat, ← sgn_toNat, toNat_not_byte, sgn, sgn]
  split <;> split <;> omega

theorem subBinary_carry_iff (a m : Byte) (c : Bool) :
    (subBinary a m c).carry = true ↔ m.toNat + (1 - c.toNat) ≤ a.toNat := by
  obtain ⟨-, hcarry, -⟩ := addBinary_exact a (~~~m) c
  have := m.isLt
  have := c.toNat_le
  rw [subBinary_eq_addBinary_not, hcarry, toNat_not_byte]
  omega

/-- Settles O40: the difference is the sum with the complement. -/
theorem binaryArithmeticIsExact : Obligations.BinaryArithmeticIsExact := by
  intro a m c
  obtain ⟨hval, hcarry, hover⟩ := addBinary_exact a m c
  obtain ⟨hsval, -, hsover⟩ := addBinary_exact a (~~~m) c
  have hm := m.isLt
  have hc := c.toNat_le
  refine ⟨hval, hcarry, hover, ?_, subBinary_carry_iff a m c, ?_⟩
  · rw [subBinary_eq_addBinary_not, hsval, toNat_not_byte]
    omega
  · rw [subBinary_eq_addBinary_not, hsover, toInt_not_byte]
    omega

/-! ## The decimal algorithms on bytes of two decimal digits (R252, R255) -/

/-- The byte with the decimal digits `d` and `l`. -/
theorem isBcd_and_bcdValue_of_digits (b : Byte) (d l : Nat) (hb : b.toNat = 16 * d + l) (hd : d ≤ 9) (hl : l ≤ 9) :
    IsBcd b ∧ bcdValue b = 10 * d + l := by
  unfold IsBcd bcdValue
  omega

/-- The low digits of an add: a low sum of 10 or more becomes a digit and a carry into the high digits. -/
theorem low_digit_of_add {a m : Byte} (c : Bool) (ha : IsBcd a) (hm : IsBcd m) :
    let low := a.toNat % 16 + m.toNat % 16 + c.toNat
    ∃ h l, h ≤ 19 ∧ l ≤ 9 ∧ bcdValue a + bcdValue m + c.toNat = 10 * h + l ∧
      a.toNat / 16 * 16 + m.toNat / 16 * 16 + (if low ≥ 0x0A then (low + 0x06) % 16 + 0x10 else low) = 16 * h + l := by
  intro low
  have hlow : low = a.toNat % 16 + m.toNat % 16 + c.toNat := rfl
  have hc := c.toNat_le
  unfold IsBcd at ha hm
  unfold bcdValue
  by_cases hcarry : low ≥ 10
  · rw [if_pos hcarry]
    exact ⟨a.toNat / 16 + m.toNat / 16 + 1, low - 10, by omega⟩
  · rw [if_neg hcarry]
    exact ⟨a.toNat / 16 + m.toNat / 16, low, by omega⟩

/-- The decimal sum of two bytes of two decimal digits (R252): a high sum of 10 or more leaves a digit and sets C. -/
theorem addDecimal_of_bcd {a m : Byte} (c : Bool) (ha : IsBcd a) (hm : IsBcd m) :
    IsBcd (addDecimal a m c).val ∧
    bcdValue (addDecimal a m c).val = (bcdValue a + bcdValue m + c.toNat) % 100 ∧
    ((addDecimal a m c).carry = true ↔ bcdValue a + bcdValue m + c.toNat ≥ 100) := by
  obtain ⟨h, l, hh, hl, hn, hr⟩ := low_digit_of_add c ha hm
  have hval : (addDecimal a m c).val.toNat = (if 16 * h + l ≥ 0xA0 then 16 * h + l + 0x60 else 16 * h + l) % 256 := by
    simp only [addDecimal, hr, BitVec.toNat_ofNat]
  have hcarry : (addDecimal a m c).carry = true ↔ (if 16 * h + l ≥ 0xA0 then 16 * h + l + 0x60 else 16 * h + l) ≥ 0x100 := by
    simp only [addDecimal, hr, decide_eq_true_eq]
  rw [hn]
  by_cases hhigh : 10 ≤ h
  · rw [if_pos (by omega)] at hval hcarry
    obtain ⟨hbcd, hvalue⟩ := isBcd_and_bcdValue_of_digits (addDecimal a m c).val (h - 10) l (by omega) (by omega) hl
    exact ⟨hbcd, by omega, hcarry.trans (by omega)⟩
  · rw [if_neg (by omega)] at hval hcarry
    obtain ⟨hbcd, hvalue⟩ := isBcd_and_bcdValue_of_digits (addDecimal a m c).val h l (by omega) (by omega) hl
    exact ⟨hbcd, by omega, hcarry.trans (by omega)⟩

theorem sgn_highNibble (b : Byte) : sgn (b.toNat / 16 * 16) = b.toInt / 16 * 16 := by
  rw [← sgn_toNat, sgn, sgn]
  split <;> split <;> omega

/-- Settles O41: the low digits' carry and the high digits' carry, by cases; V reads the high nibbles as signed. -/
theorem decimalAddOfBcd : Obligations.DecimalAddOfBcd := by
  refine ⟨fun _ _ c => addDecimal_of_bcd c, by decide, by decide, fun a m c => ?_⟩
  dsimp only
  rw [← sgn_highNibble, ← sgn_highNibble]
  exact decide_eq_true_iff

/-- The low digits of a subtract: a low difference below 0 becomes a digit and a borrow from the high digits. -/
theorem low_digit_of_sub {a m : Byte} (c : Bool) (ha : IsBcd a) (hm : IsBcd m) :
    ∃ h l : Int, -10 ≤ h ∧ h ≤ 9 ∧ 0 ≤ l ∧ l ≤ 9 ∧
      (bcdValue a : Int) - bcdValue m + c.toNat - 1 = 10 * h + l ∧
      (a.toNat : Int) - m.toNat + c.toNat - 1 = 16 * h + l +
        if ((a.toNat % 16 : Nat) : Int) - (m.toNat % 16 : Nat) + (c.toNat : Nat) - 1 < 0 then 6 else 0 := by
  have hc := c.toNat_le
  unfold IsBcd at ha hm
  unfold bcdValue
  by_cases hborrow : ((a.toNat % 16 : Nat) : Int) - (m.toNat % 16 : Nat) + (c.toNat : Nat) - 1 < 0
  · rw [if_pos hborrow]
    exact ⟨a.toNat / 16 - m.toNat / 16 - 1, a.toNat % 16 - m.toNat % 16 + c.toNat + 9, by omega⟩
  · rw [if_neg hborrow]
    exact ⟨a.toNat / 16 - m.toNat / 16, a.toNat % 16 - m.toNat % 16 + c.toNat - 1, by omega⟩

/-- The decimal difference of two bytes of two decimal digits (R255): a high difference below 0 wraps to a digit. -/
theorem subDecimal_of_bcd {a m : Byte} (c : Bool) (ha : IsBcd a) (hm : IsBcd m) :
    IsBcd (subDecimal a m c).val ∧
    bcdValue (subDecimal a m c).val = (bcdValue a + 100 - bcdValue m - (1 - c.toNat)) % 100 ∧
    ((subBinary a m c).carry = true ↔ bcdValue m + (1 - c.toNat) ≤ bcdValue a) := by
  obtain ⟨h, l, hlo, hhi, hl0, hl9, hn, hr⟩ := low_digit_of_sub c ha hm
  have hc := c.toNat_le
  have hval : ((subDecimal a m c).val.toNat : Int) = (if h < 0 then 16 * h + l - 0x60 else 16 * h + l) % 256 := by
    simp only [subDecimal, BitVec.toNat_ofInt, hr]
    split_ifs <;> omega
  rw [subBinary_carry_iff]
  by_cases hhigh : h < 0
  · rw [if_pos hhigh] at hval
    obtain ⟨hbcd, hvalue⟩ :=
      isBcd_and_bcdValue_of_digits (subDecimal a m c).val (h + 10).toNat l.toNat (by omega) (by omega) (by omega)
    exact ⟨hbcd, by omega, by omega⟩
  · rw [if_neg hhigh] at hval
    obtain ⟨hbcd, hvalue⟩ :=
      isBcd_and_bcdValue_of_digits (subDecimal a m c).val h.toNat l.toNat (by omega) (by omega) (by omega)
    exact ⟨hbcd, by omega, by omega⟩

/-- Settles O42: C and V are the binary ones by definition; on decimal digits the borrows go digit by digit. -/
theorem decimalSubtractOfBcd : Obligations.DecimalSubtractOfBcd := fun _ _ c =>
  ⟨rfl, rfl, subDecimal_of_bcd c⟩

end Sys2Proof.Machine

/-! SUPPORT. Proofs of the statements about logic and bit operations (44_logic_bit.md): AND, ORA, EOR and BIT from the rule of the
reading class, TSB, TRB, RMBn and SMBn from one frame for the accesses of a read-modify-write. -/

namespace Sys2Proof.Machine

/-! ## AND, ORA and EOR (R280 to R282) -/

/-- An instruction that puts `op` of A and the operand in A, and sets N and Z from it. -/
theorem readsAndPuts_of_logic {i : Instr} {src : Src} {s : State} (op : Byte → Byte → Byte)
    (hexec : exec i s = readInstr i src (fun v t => (t.setA (op t.a v)).setNZ (op t.a v)) s)
    (hcount : baseCycles i = srcCycles src) :
    ReadsAndPuts i src (fun v t => { t with a := op s.a v })
      (fun v q => NZOf (op s.a v) q ∧ FlagsKeptBut [.n, .z] s.p q) s :=
  readsAndPuts_of_readInstr hexec hcount rfl ⟨nzOf_forceU_setNZ _ s.p, flagsKeptBut_forceU_setNZ _ s.p⟩ rfl

/-! ## The flags of BIT, TSB and TRB (R283 to R285) -/

/-- What BIT immediate, TSB and TRB do to P: Z alone is written, from the bits that A and the byte share. -/
theorem flagsOf_forceU_bitImmP (a m p : Byte) :
    getF .z (forceU (bitImmP a m p)) = decide (a &&& m = 0) ∧ FlagsKeptBut [.z] p (forceU (bitImmP a m p)) := by
  refine ⟨by simp [getF_forceU, bitImmP, Bool.beq_eq_decide_eq], flagsKeptBut_forceU fun f hf => ?_⟩
  rw [bitImmP, getF_setF_other f .z _ p (by simpa using hf)]

theorem getF_bitMemP (f : Flag) (a m p : Byte) :
    getF f (bitMemP a m p) = if f = .v then m.getLsbD 6 else if f = .n then m.getLsbD 7
      else if f = .z then a &&& m == 0 else getF f p := by
  rw [bitMemP, getF_setF, getF_setF, getF_setF]

/-- What BIT on memory does to P. -/
theorem flagsOf_forceU_bitMemP (a m p : Byte) :
    getF .z (forceU (bitMemP a m p)) = decide (a &&& m = 0) ∧ getF .n (forceU (bitMemP a m p)) = m.getLsbD 7 ∧
      getF .v (forceU (bitMemP a m p)) = m.getLsbD 6 ∧ FlagsKeptBut [.z, .n, .v] p (forceU (bitMemP a m p)) := by
  refine ⟨?_, ?_, ?_, flagsKeptBut_forceU fun f hf => ?_⟩
  · simp [getF_forceU, getF_bitMemP, Bool.beq_eq_decide_eq]
  · simp [getF_forceU, getF_bitMemP]
  · simp [getF_forceU, getF_bitMemP]
  · obtain ⟨hz, hn, hv⟩ : f ≠ .z ∧ f ≠ .n ∧ f ≠ .v := by simpa using hf
    rw [getF_bitMemP, if_neg hv, if_neg hn, if_neg hz]

/-- BIT writes no field but P, whatever its form makes of P. -/
theorem readsAndPuts_of_bit {src : Src} {flags : Byte → Byte → Prop} {s : State}
    (hflags : flags (operandOf src s) (forceU (bitP src s.a (operandOf src s) s.p))) :
    ReadsAndPuts (.bit src) src (fun _ t => t) flags s :=
  readsAndPuts_of_readInstr (f := fun v t => t.setP (bitP src t.a v t.p)) rfl rfl rfl hflags rfl

/-- Settles O44: AND, ORA and EOR differ only in the operation on A; BIT's flags go by its form. -/
theorem logicPutsTheResultInA : Obligations.LogicPutsTheResultInA := by
  intro src s
  refine ⟨readsAndPuts_of_logic (· &&& ·) rfl rfl, readsAndPuts_of_logic (· ||| ·) rfl rfl,
    readsAndPuts_of_logic (· ^^^ ·) rfl rfl, readsAndPuts_of_bit ?_⟩
  cases src with
  | imm v => exact flagsOf_forceU_bitImmP s.a v s.p
  | mem m => exact flagsOf_forceU_bitMemP s.a (s.mem.readMap (eaOf m s)) s.p

/-! ## Read-modify-write on memory (R177) -/

theorem rmwCycles_eq_rmwCount (absx : Nat) (m : Mem) : rmwCycles absx m = rmwCount absx m := by cases m <;> rfl

/-- The one byte that a read-modify-write changes is the one at the effective address. -/
theorem storesOnlyAt_rmwAccesses (m : Mem) (v : Byte) (s : State) :
    StoresOnlyAt [eaOf m s] s.mem (replay (rmwAccesses m v s) s.mem) := by
  have h := storesOnlyAt_replay (rmwAccesses m v s) s.mem
  rwa [writtenBy_rmwAccesses] at h

/-- In windows 0 to 12 the byte written back is in `ram` afterwards, even if the dummy read was at a switch. -/
theorem read_ram_rmwAccesses (m : Mem) (v : Byte) (s : State) (hwf : s.mem.wf = true) (hlow : bank (eaOf m s) ≤ 12) :
    Memory.read (replay (rmwAccesses m v s) s.mem).ram (eaOf m s).toNat = v := by
  rw [rmwAccesses, replay_append, replay_pointerReads, replay_cons, replay_cons, replay_cons, replay_nil]
  exact read_ram_apply_write _ _ _ (Banked.wf_apply _ _ (Banked.wf_apply _ _ hwf)) hlow

/-! ## TSB and TRB (R284, R285) -/

/-- An instruction whose rule is a read-modify-write on memory by `f`. -/
theorem modifiesMem_of_rmwMem {i : Instr} {m : Mem} {f : RmwFn} {val : Byte → Byte} {flags : Byte → Byte → Prop} {s : State}
    (hexec : exec i s = finish i (rmwMem (applyRmw f) m s)) (hcount : baseCycles i = rmwCycles 6 m)
    (hval : ∀ v, (f v s.p).1 = val v) (hflags : ∀ v, flags v (forceU (f v s.p).2)) : ModifiesMem i m val flags s := by
  rw [rmwMem_eq, finish_eq, hcount, rmwCycles_eq_rmwCount, hval] at hexec
  refine ⟨_, hexec, rfl, hflags _, ?_⟩
  rw [resolve_addr]
  exact storesOnlyAt_rmwAccesses m _ s

/-- TRB and RMBn take the complement by an exclusive or. -/
theorem xor_0xFF (b : Byte) : b ^^^ 0xFF = ~~~b := BitVec.xor_allOnes

/-- Settles O45: TSB and TRB differ only in the byte that they write back. -/
theorem testAndSetBits : Obligations.TestAndSetBits := fun _ s =>
  ⟨modifiesMem_of_rmwMem (f := tsbF s.a) rfl rfl (fun _ => rfl) fun v => flagsOf_forceU_bitImmP s.a v s.p,
    modifiesMem_of_rmwMem (f := trbF s.a) rfl rfl (fun v => congrArg (v &&& ·) (xor_0xFF s.a))
      fun v => flagsOf_forceU_bitImmP s.a v s.p⟩

/-! ## RMBn and SMBn (R286, R287) -/

theorem exec_rmbAt (n : Fin 8) (nn : Byte) (s : State) : exec (rmbAt n nn) s = resetBit (rmbAt n nn) n nn s := by
  fin_cases n <;> rfl

theorem exec_smbAt (n : Fin 8) (nn : Byte) (s : State) : exec (smbAt n nn) s = setBit (smbAt n nn) n nn s := by
  fin_cases n <;> rfl

theorem baseCycles_rmbAt (n : Fin 8) (nn : Byte) : baseCycles (rmbAt n nn) = 5 := by fin_cases n <;> rfl

theorem baseCycles_smbAt (n : Fin 8) (nn : Byte) : baseCycles (smbAt n nn) = 5 := by fin_cases n <;> rfl

/-- The mask of bit `n` has that bit alone. -/
theorem getLsbD_bitMask (n k : Nat) (hk : k < 8) : (bitMask n).getLsbD k = decide (k = n) := by
  have hpos : ¬ k < n ∧ k - n = 0 ↔ k = n := by omega
  rw [bitMask, BitVec.getLsbD_shiftLeft, BitVec.getLsbD_one, Bool.eq_iff_iff]
  simpa [hk] using hpos

theorem getLsbD_and_bitMask (v : Byte) (n k : Nat) (hk : k < 8) :
    (v &&& (bitMask n ^^^ 0xFF)).getLsbD k = if k = n then false else v.getLsbD k := by
  rw [xor_0xFF, BitVec.getLsbD_and, BitVec.getLsbD_not, getLsbD_bitMask n k hk]
  by_cases h : k = n <;> simp [h, hk]

theorem getLsbD_or_bitMask (v : Byte) (n k : Nat) (hk : k < 8) :
    (v ||| bitMask n).getLsbD k = if k = n then true else v.getLsbD k := by
  rw [BitVec.getLsbD_or, getLsbD_bitMask n k hk]
  by_cases h : k = n <;> simp [h]

theorem eaOf_zp (nn : Byte) (s : State) : eaOf (.zp nn) s = zext nn := (zext_eq_join nn).symm

theorem readMap_zext (m : Banked) (nn : Byte) : m.readMap (zext nn) = Memory.read m.ram nn.toNat := by
  rw [readMap_low _ _ (by simp [bank_zext]), zext_toNat]

/-- An instruction of five cycles whose rule makes the zero-page byte `g` of it and writes no flag. -/
theorem completes_of_rmwMem_zp {i : Instr} {g : Byte → Byte} {nn : Byte} {s : State}
    (hexec : exec i s = finish i (rmwMem (fun v t => (g v, t)) (.zp nn) s)) (hcount : baseCycles i = 5) :
    let v := g (Memory.read s.mem.ram nn.toNat)
    ∃ t, exec i s = .next t ∧ t = { s.afterBus (rmwAccesses (.zp nn) v s) with cycles := 5 } ∧
      StoresOnlyAt [join 0x00 nn] s.mem t.mem ∧ (s.mem.wf = true → Memory.read t.mem.ram nn.toNat = v) := by
  rw [rmwMem_noflag_eq, finish_eq, hcount, eaOf_zp, readMap_zext] at hexec
  refine ⟨_, hexec, rfl, storesOnlyAt_rmwAccesses (.zp nn) _ s, fun hwf => ?_⟩
  have hlow : bank (eaOf (.zp nn) s) ≤ 12 := by simp [eaOf_zp, bank_zext]
  have hread := read_ram_rmwAccesses (.zp nn) (g (Memory.read s.mem.ram nn.toNat)) s hwf hlow
  rwa [eaOf_zp, zext_toNat] at hread

/-- Settles O46: the sixteen instructions differ only in the bit and in what they make of it. -/
theorem resetAndSetMemoryBit : Obligations.ResetAndSetMemoryBit := fun n nn s =>
  ⟨⟨_, getLsbD_and_bitMask _ n, completes_of_rmwMem_zp (exec_rmbAt n nn s) (baseCycles_rmbAt n nn)⟩,
    ⟨_, getLsbD_or_bitMask _ n, completes_of_rmwMem_zp (exec_smbAt n nn s) (baseCycles_smbAt n nn)⟩⟩

end Sys2Proof.Machine

/-! SUPPORT. Proofs of the statements about increments, shifts and rotates (45_incdec_shift.md): one rule for the read-modify-write
instructions in both their forms, and the shifted bytes in numbers. -/

namespace Sys2Proof.Machine

/-! ## Read-modify-write in both forms (R310) -/

/-- A family of instructions that read, modify and write A or memory by `f`. -/
theorem modifies_of_rmwDst {i : Dst → Instr} {f : RmwFn} {val : Byte → Byte → Byte} {flags : Byte → Byte → Byte → Prop}
    {absx : Nat} {cross : Mem → State → Nat} (hacc : ∀ s, exec (i .acc) s = .next ((rmwDst f .acc s).setCycles 2))
    (hmem : ∀ m s, exec (i (.mem m)) s = .next ((rmwDst f (.mem m) s).setCycles (rmwCycles absx m + cross m s)))
    (hval : ∀ v p, (f v p).1 = val v p) (hflags : ∀ v p, flags v p (forceU (f v p).2)) : Modifies i val flags absx cross := by
  intro s
  constructor
  · have hexec := hacc s
    rw [rmwDst_acc_eq, hval] at hexec
    exact ⟨_, hexec, rfl, hflags _ _⟩
  · intro m
    have hexec := hmem m s
    rw [rmwDst_mem_eq, hval, rmwCycles_eq_rmwCount] at hexec
    refine ⟨_, hexec, rfl, hflags _ _, ?_⟩
    rw [resolve_addr]
    exact storesOnlyAt_rmwAccesses m _ s

/-- Settles O47: INC and DEC differ only in the byte that they put back. -/
theorem incrementAndDecrement : Obligations.IncrementAndDecrement :=
  ⟨modifies_of_rmwDst (f := incF) (fun _ => rfl) (fun _ _ => rfl) (fun _ _ => rfl)
      fun v p => ⟨nzOf_forceU_setNZ (v + 1) p, flagsKeptBut_forceU_setNZ (v + 1) p⟩,
    modifies_of_rmwDst (f := decF) (fun _ => rfl) (fun _ _ => rfl) (fun _ _ => rfl)
      fun v p => ⟨nzOf_forceU_setNZ (v - 1) p, flagsKeptBut_forceU_setNZ (v - 1) p⟩⟩

/-! ## The flags and the count of a shift (R317 to R320) -/

/-- The bit shifted out goes to C, N and Z follow the new byte `v`, and the rest is kept. -/
theorem flagsOf_forceU_setNZ_setF_c (v : Byte) (c : Bool) (p : Byte) :
    NZOf v (forceU (setNZ v (setF .c c p))) ∧ getF .c (forceU (setNZ v (setF .c c p))) = c ∧
      FlagsKeptBut [.n, .z, .c] p (forceU (setNZ v (setF .c c p))) := by
  refine ⟨nzOf_forceU_setNZ v _, by simp [getF_forceU, getF_setNZ], flagsKeptBut_forceU fun f hf => ?_⟩
  obtain ⟨hn, hz, hc⟩ : f ≠ .n ∧ f ≠ .z ∧ f ≠ .c := by simpa using hf
  rw [getF_setNZ, if_neg hz, if_neg hn, getF_setF_other f .c c p hc]

/-- Only absolute,X pays for a page cross. -/
theorem shiftPenalty_mem (m : Mem) (s : State) : shiftPenalty (.mem m) s = absxCross m s := by cases m <;> rfl

/-- A shift or rotate: `f` puts back `val` and sends bit `bit` of the old byte to C. -/
theorem modifies_of_shiftInstr {i : Dst → Instr} {f : RmwFn} {val : Byte → Byte → Byte} {bit : Nat}
    (hexec : ∀ dst s, exec (i dst) s = shiftInstr (i dst) f dst s) (hcount : ∀ dst, baseCycles (i dst) = dstCycles 6 dst)
    (hval : ∀ v p, (f v p).1 = val v p) (hp : ∀ v p, (f v p).2 = setNZ (f v p).1 (setF .c (v.getLsbD bit) p)) :
    Modifies i val (fun v p q => NZOf (val v p) q ∧ getF .c q = v.getLsbD bit ∧ FlagsKeptBut [.n, .z, .c] p q) 6 absxCross := by
  refine modifies_of_rmwDst (f := f) (fun s => ?_) (fun m s => ?_) hval (fun v p => ?_)
  · rw [hexec, shiftInstr, hcount]
    rfl
  · rw [hexec, shiftInstr, hcount, shiftPenalty_mem]
    rfl
  · rw [hp, hval]
    exact flagsOf_forceU_setNZ_setF_c (val v p) (v.getLsbD bit) p

/-! ## The shifted bytes in numbers -/

theorem toNat_shiftLeft_one (v : Byte) : (v <<< 1).toNat = 2 * (v.toNat % 128) := by
  rw [BitVec.toNat_shiftLeft, Nat.shiftLeft_eq]
  omega

theorem toNat_shiftRight_one (v : Byte) : (v >>> 1).toNat = v.toNat / 2 := by
  rw [BitVec.toNat_ushiftRight, Nat.shiftRight_eq_div_pow, pow_one]

theorem shiftLeft_one_eq_ofNat (v : Byte) : v <<< 1 = BitVec.ofNat 8 (2 * v.toNat) := by
  apply BitVec.eq_of_toNat_eq
  rw [toNat_shiftLeft_one, BitVec.toNat_ofNat]
  omega

theorem shiftRight_one_eq_ofNat (v : Byte) : v >>> 1 = BitVec.ofNat 8 (v.toNat / 2) := by
  apply BitVec.eq_of_toNat_eq
  rw [toNat_shiftRight_one, BitVec.toNat_ofNat]
  omega

/-- Bit 0 of a byte shifted left is free, so the carry that enters there is added. -/
theorem rotateLeft_one_eq_ofNat (v : Byte) (c : Bool) :
    (v <<< 1) ||| (if c then 0x01 else 0x00) = BitVec.ofNat 8 (2 * v.toNat + c.toNat) := by
  apply BitVec.eq_of_toNat_eq
  have hor : 2 * (v.toNat % 128) + c.toNat = 2 * (v.toNat % 128) ||| c.toNat :=
    Nat.two_pow_add_eq_or_of_lt (i := 1) c.toNat_lt _
  have hbit : (if c then 0x01 else 0x00 : Byte).toNat = c.toNat := by cases c <;> rfl
  rw [BitVec.toNat_or, toNat_shiftLeft_one, hbit, ← hor, BitVec.toNat_ofNat]
  have := c.toNat_le
  omega

/-- Bit 7 of a byte shifted right is free, so the carry that enters there is added. -/
theorem rotateRight_one_eq_ofNat (v : Byte) (c : Bool) :
    (v >>> 1) ||| (if c then 0x80 else 0x00) = BitVec.ofNat 8 (v.toNat / 2 + 128 * c.toNat) := by
  apply BitVec.eq_of_toNat_eq
  have hor : 128 * c.toNat + v.toNat / 2 = 128 * c.toNat ||| v.toNat / 2 :=
    Nat.two_pow_add_eq_or_of_lt (i := 7) (by omega) _
  have hbit : (if c then 0x80 else 0x00 : Byte).toNat = 128 * c.toNat := by cases c <;> rfl
  rw [BitVec.toNat_or, toNat_shiftRight_one, hbit, Nat.or_comm, ← hor, BitVec.toNat_ofNat]
  have := c.toNat_le
  omega

/-- Settles O48: the four differ only in the byte that they put back and the bit that goes to C. -/
theorem shiftsAndRotates : Obligations.ShiftsAndRotates :=
  ⟨modifies_of_shiftInstr (f := aslF) (fun _ _ => rfl) (fun _ => rfl) (fun v _ => shiftLeft_one_eq_ofNat v) fun _ _ => rfl,
    modifies_of_shiftInstr (f := lsrF) (fun _ _ => rfl) (fun _ => rfl) (fun v _ => shiftRight_one_eq_ofNat v) fun _ _ => rfl,
    modifies_of_shiftInstr (f := rolF) (fun _ _ => rfl) (fun _ => rfl) (fun v p => rotateLeft_one_eq_ofNat v (getF .c p))
      fun _ _ => rfl,
    modifies_of_shiftInstr (f := rorF) (fun _ _ => rfl) (fun _ => rfl) (fun v p => rotateRight_one_eq_ofNat v (getF .c p))
      fun _ _ => rfl⟩

end Sys2Proof.Machine

/-! SUPPORT. Proofs of the statements about control transfer (46_control.md): the jumps, the calls and the software trap with what
their returns find on the stack, and one rule for all the branches. -/

namespace Sys2Proof.Machine

/-! ## Jumps and calls (R340, R341) -/

/-- JMP transfers to what its form reads, the opcode being three bytes back. -/
theorem exec_jmp_of_resolveTarget {t : Target} {s : State} {es : List BusEvent} {target : Word} {crossed : Bool}
    (h : resolveTarget t s = (⟨target, crossed⟩, s.afterBus es)) :
    exec (.jmp t) s = .next
      { s.afterBus es with
        pc := target, trace := recordIn s.cfg.traceCap (s.pc - 3) target s.trace, cycles := baseCycles (.jmp t) } := by
  have hexec : exec (.jmp t) s =
      finish (.jmp t) (transfer (s.pc - 3) (resolveTarget t s).1.addr (resolveTarget t s).2) := by cases t <;> rfl
  rw [hexec, h, transfer_eq, finish_eq]
  rfl

/-- Settles O49: the three forms differ in the word that they read, and reads change no store. -/
theorem jumpsGoToTheirTarget : Obligations.JumpsGoToTheirTarget := fun w s =>
  ⟨exec_jmp_of_resolveTarget (es := []) (by rw [resolveTarget_eq, State.afterBus_nil]),
    exec_jmp_of_resolveTarget (resolveTarget_eq (.ind w) s), exec_jmp_of_resolveTarget (resolveTarget_eq (.iax w) s),
    fun _ => sameStores_replay [readEv _ _, readEv _ _] s.mem rfl⟩

/-- A JSR that is not trapped: two pushes, then the transfer (R341). -/
theorem exec_jsr_of_not_trap (w : Word) (s : State) (h : s.cfg.mliTrapAddr ≠ some w) :
    exec (.jsr w) s = .next
      { s.afterBus [.write (stackAddr s.sp) (hi (s.pc - 1)), .write (stackAddr (s.sp - 1)) (lo (s.pc - 1))] with
        sp := s.sp - 2, pc := w, trace := recordIn s.cfg.traceCap (s.pc - 3) w s.trace, cycles := 6 } := by
  have hf : isTrapTarget s.cfg w = false := by simpa [isTrapTarget] using h
  have hexec : exec (.jsr w) s = finish (.jsr w) (transfer (s.pc - 3) w (pushWord (s.pc - 1) s)) := by
    simp only [exec, execJsr, hf]
    rfl
  rw [hexec, pushWord_eq, transfer_eq, finish_eq]
  rfl

/-- Settles O50: the two pushes are the only writes of a JSR. -/
theorem jsrPushesItsReturnAddress : Obligations.JsrPushesItsReturnAddress := fun w s h =>
  ⟨_, exec_jsr_of_not_trap w s h, rfl, storesOnlyAt_replay [.write _ _, .write _ _] s.mem⟩

/-! ## What a return finds on the stack -/

/-- After a push to page 1, that byte is the one pushed and every other byte of the page is as before. -/
theorem readMap_stackAddr_after_push (m : Banked) (sp k v : Byte) (hwf : m.wf = true) :
    ((BusEvent.write (stackAddr sp) v).apply m).readMap (stackAddr k) =
      if k = sp then v else m.readMap (stackAddr k) := by
  obtain ⟨hram, -, -⟩ := (Banked.wf_iff m).1 hwf
  have hk : 0x100 + k.toNat = 0x100 + sp.toNat ↔ k = sp := by rw [Nat.add_left_cancel_iff, BitVec.toNat_inj]
  rw [readMap_stackAddr, apply_stackWrite, stackAddr_toNat, readMap_stackAddr, Memory.read_write _ _ hram]
  simp only [hk]

/-- The two bytes that a JSR pushed, once it has pushed them both. -/
theorem readMap_after_two_pushes (m : Banked) (sp u v : Byte) (hwf : m.wf = true) :
    let m' := replay [.write (stackAddr sp) u, .write (stackAddr (sp - 1)) v] m
    m'.readMap (stackAddr sp) = u ∧ m'.readMap (stackAddr (sp - 1)) = v := by
  have hwf1 := Banked.wf_apply (.write (stackAddr sp) u) m hwf
  have hne : sp ≠ sp - 1 := by bv_omega
  simp only [replay_cons, replay_nil]
  constructor
  · rw [readMap_stackAddr_after_push _ _ _ _ hwf1, if_neg hne, readMap_stackAddr_after_push _ _ _ _ hwf, if_pos rfl]
  · rw [readMap_stackAddr_after_push _ _ _ _ hwf1, if_pos rfl]

/-- The three bytes that a BRK pushed, once it has read the vector too. -/
theorem readMap_after_trap_pushes (m : Banked) (sp u v q : Byte) (hwf : m.wf = true) :
    let m' := replay [.write (stackAddr sp) u, .write (stackAddr (sp - 1)) v, .write (stackAddr (sp - 2)) q,
      readEv m 0xFFFE, readEv m 0xFFFF] m
    m'.readMap (stackAddr sp) = u ∧ m'.readMap (stackAddr (sp - 1)) = v ∧ m'.readMap (stackAddr (sp - 2)) = q := by
  intro m'
  have hwf2 := Banked.wf_replay [.write (stackAddr sp) u, .write (stackAddr (sp - 1)) v] m hwf
  obtain ⟨hu, hv⟩ := readMap_after_two_pushes m sp u v hwf
  have hvector (m₀ : Banked) : replay [readEv m 0xFFFE, readEv m 0xFFFF] m₀ = m₀ := by
    simp only [replay_cons, replay_nil, readEv, apply_read_of_not_switch 0xFFFE _ _ rfl, apply_read_of_not_switch 0xFFFF _ _ rfl]
  have hmem : m' = (BusEvent.write (stackAddr (sp - 2)) q).apply
      (replay [.write (stackAddr sp) u, .write (stackAddr (sp - 1)) v] m) := hvector _
  have hne0 : sp ≠ sp - 2 := by bv_omega
  have hne1 : sp - 1 ≠ sp - 2 := by bv_omega
  rw [hmem]
  refine ⟨?_, ?_, ?_⟩
  · rw [readMap_stackAddr_after_push _ _ _ _ hwf2, if_neg hne0, hu]
  · rw [readMap_stackAddr_after_push _ _ _ _ hwf2, if_neg hne1, hv]
  · rw [readMap_stackAddr_after_push _ _ _ _ hwf2, if_pos rfl]

/-! ## RTS (R342) -/

theorem exec_rts (s : State) :
    exec .rts s = .next
      { s with
        pc := join (s.mem.readMap (stackAddr (s.sp + 2))) (s.mem.readMap (stackAddr (s.sp + 1))) + 1, sp := s.sp + 2
        trace := recordIn s.cfg.traceCap (s.pc - 1)
          (join (s.mem.readMap (stackAddr (s.sp + 2))) (s.mem.readMap (stackAddr (s.sp + 1))) + 1) s.trace
        cycles := 6
        bus := s.bus ++ [readEv s.mem (stackAddr (s.sp + 1)), readEv s.mem (stackAddr (s.sp + 2))] } := by
  have hexec : exec .rts s = finish .rts (transfer (s.pc - 1) ((pullWord s).1 + 1) (pullWord s).2) := rfl
  rw [hexec, pullWord_eq, transfer_eq, finish_eq]
  rfl

/-- Below the top of page 1 the next stack byte has the next address. -/
theorem stackAddr_add_one (sp : Byte) (h : sp ≠ 0xFF) : stackAddr sp + 1 = stackAddr (sp + 1) := by
  apply BitVec.eq_of_toNat_eq
  rw [BitVec.toNat_add, stackAddr_toNat, stackAddr_toNat]
  bv_omega

/-- Settles O51: RTS pulls the two bytes that the JSR pushed, and one more than `next - 1` is `next`. -/
theorem rtsReturnsPastTheCall : Obligations.RtsReturnsPastTheCall := by
  refine ⟨fun s => ⟨fun hsp => ?_, exec_rts s⟩, fun w s t u hwf htrap hjsr hsp hmem => ⟨_, exec_rts u, ?_⟩⟩
  · have hnext : s.sp + 1 + 1 = s.sp + 2 := by bv_omega
    have hne : s.sp + 1 ≠ 0xFF := by bv_omega
    rw [wordAt, stackAddr_add_one _ hne, hnext]
  · rw [exec_jsr_of_not_trap w s htrap] at hjsr
    cases hjsr
    have hsp1 : u.sp + 1 = s.sp - 1 := by rw [hsp]; bv_omega
    have hsp2 : u.sp + 2 = s.sp := by rw [hsp]; bv_omega
    obtain ⟨hhi, hlo⟩ := readMap_after_two_pushes s.mem s.sp (hi (s.pc - 1)) (lo (s.pc - 1)) hwf
    dsimp only
    rw [hsp1, hsp2, hmem]
    dsimp only [State.afterBus_mem]
    rw [hhi, hlo, join_hi_lo, BitVec.sub_add_cancel]
    exact ⟨rfl, rfl⟩

/-! ## BRK and RTI (R343, R344) -/

theorem exec_brk (ss : Byte) (s : State) :
    exec (.brk ss) s = .next
      { s.afterBus [.write (stackAddr s.sp) (hi (s.pc - 1 + 2)), .write (stackAddr (s.sp - 1)) (lo (s.pc - 1 + 2)),
          .write (stackAddr (s.sp - 2)) (s.p ||| 0x30), readEv s.mem 0xFFFE, readEv s.mem 0xFFFF] with
        sp := s.sp - 3, p := forceU (setF .d false (setF .i true s.p)), pc := wordAt s.mem 0xFFFE
        trace := recordIn s.cfg.traceCap (s.pc - 1) (wordAt s.mem 0xFFFE) s.trace, cycles := 7 } := by
  have hexec : exec (.brk ss) s = finish (.brk ss) (enterTrap (s.pc - 1) s) := rfl
  rw [hexec, enterTrap_eq, finish_eq]
  rfl

/-- P inside the handler: I set, D cleared (R435). -/
theorem flagsOf_trapP (p : Byte) :
    getF .i (forceU (setF .d false (setF .i true p))) = true ∧ getF .d (forceU (setF .d false (setF .i true p))) = false ∧
      FlagsKeptBut [.i, .d] p (forceU (setF .d false (setF .i true p))) := by
  refine ⟨by simp [getF_forceU, getF_setF], by simp [getF_forceU], flagsKeptBut_forceU fun f hf => ?_⟩
  obtain ⟨hI, hD⟩ : f ≠ .i ∧ f ≠ .d := by simpa using hf
  rw [getF_setF_other f .d _ _ hD, getF_setF_other f .i _ _ hI]

/-- Settles O52: the three pushes are the only writes of a BRK. -/
theorem brkEntersItsHandler : Obligations.BrkEntersItsHandler := fun ss s =>
  have ⟨hI, hD, hkept⟩ := flagsOf_trapP s.p
  ⟨_, exec_brk ss s, rfl, hI, hD, hkept,
    storesOnlyAt_replay [.write _ _, .write _ _, .write _ _, readEv s.mem _, readEv s.mem _] s.mem⟩

theorem exec_rti (s : State) :
    exec .rti s = .next
      { s with
        pc := join (s.mem.readMap (stackAddr (s.sp + 3))) (s.mem.readMap (stackAddr (s.sp + 2))), sp := s.sp + 3
        p := forceU (pulledP (s.mem.readMap (stackAddr (s.sp + 1)))), cycles := 6
        trace := recordIn s.cfg.traceCap (s.pc - 1)
          (join (s.mem.readMap (stackAddr (s.sp + 3))) (s.mem.readMap (stackAddr (s.sp + 2)))) s.trace
        bus := s.bus ++ [readEv s.mem (stackAddr (s.sp + 1)), readEv s.mem (stackAddr (s.sp + 2)),
          readEv s.mem (stackAddr (s.sp + 3))] } := by
  have hexec : exec .rti s = finish .rti (returnFromTrap (s.pc - 1) s) := rfl
  rw [hexec, returnFromTrap_eq, finish_eq]
  rfl

/-- Settles O53: RTI pulls the three bytes that the BRK pushed; of P only B and U were changed on the way. -/
theorem rtiReturnsFromBrk : Obligations.RtiReturnsFromBrk := by
  refine ⟨fun s => ⟨_, exec_rti s, rfl, getF_forceU_pulledP _⟩, fun ss s t u hwf hbrk hsp hmem => ⟨_, exec_rti u, ?_⟩⟩
  rw [exec_brk] at hbrk
  cases hbrk
  have hsp1 : u.sp + 1 = s.sp - 2 := by rw [hsp]; bv_omega
  have hsp2 : u.sp + 2 = s.sp - 1 := by rw [hsp]; bv_omega
  have hsp3 : u.sp + 3 = s.sp := by rw [hsp]; bv_omega
  obtain ⟨hhi, hlo, hp⟩ :=
    readMap_after_trap_pushes s.mem s.sp (hi (s.pc - 1 + 2)) (lo (s.pc - 1 + 2)) (s.p ||| 0x30) hwf
  obtain ⟨-, -, hpulled⟩ := getF_forceU_pulledP (pushedP s.p)
  dsimp only
  rw [hsp1, hsp2, hsp3, hmem]
  dsimp only [State.afterBus_mem]
  rw [hhi, hlo, hp, join_hi_lo]
  refine ⟨rfl, rfl, fun f hb hu => (hpulled f hb hu).trans ?_⟩
  rw [getF_pushedP, if_neg (not_or.2 ⟨hu, hb⟩)]

/-! ## Branches (R350) -/

/-- The model's own sign extension is the library's. -/
theorem sext_eq_signExtend (b : Byte) : sext b = b.signExtend 16 := by
  apply BitVec.eq_of_toNat_eq
  rw [BitVec.toNat_signExtend, BitVec.toNat_setWidth, BitVec.msb_eq_decide, sext]
  by_cases h : b.toNat < 128
  · rw [if_pos h, if_neg (by simpa using h), BitVec.toNat_ofNat, Nat.add_zero]
  · rw [if_neg h, if_pos (by simpa using h), BitVec.toNat_ofNat]
    omega

/-- An instruction whose rule ends, in the state `t` after its reads, with the common branch. -/
theorem exec_branch {i : Instr} {start : Word} {c : Bool} {cond : Prop} {base taken : Nat} {rr : Byte} {s t : State}
    (hexec : exec i s = branch i start c taken rr t) (hcount : baseCycles i = base) (hc : c = true ↔ cond) :
    (cond → exec i s = .next { t with
        pc := t.pc + rr.signExtend 16
        trace := recordIn t.cfg.traceCap start (t.pc + rr.signExtend 16) t.trace
        cycles := base + taken + pageCost (t.pc + rr.signExtend 16) t.pc }) ∧
      (¬ cond → exec i s = .next { t with cycles := base }) := by
  rw [hexec, ← hc, ← hcount]
  cases c with
  | true => exact ⟨fun _ => by rw [branch_taken, sext_eq_signExtend, ← Nat.add_assoc]; rfl, fun h => absurd rfl h⟩
  | false => exact ⟨fun h => absurd h Bool.false_ne_true, fun _ => branch_not_taken i start taken rr t⟩

/-- Settles O54: the nine branches differ in their condition, and BRA in its count. -/
theorem branchesTestTheirFlag : Obligations.BranchesTestTheirFlag := fun _ s =>
  have clear (f : Flag) : (!getF f s.p) = true ↔ getF f s.p = false := by rw [Bool.not_eq_true']
  ⟨exec_branch rfl rfl (clear .n), exec_branch rfl rfl .rfl, exec_branch rfl rfl (clear .v), exec_branch rfl rfl .rfl,
    exec_branch rfl rfl (clear .c), exec_branch rfl rfl .rfl, exec_branch rfl rfl (clear .z), exec_branch rfl rfl .rfl,
    exec_branch rfl rfl (iff_of_true rfl trivial)⟩

/-! ## Bit branches (R360, R361) -/

/-- A bit branch: its two reads, then the common branch from the byte after its displacement. -/
theorem bitBranches_of_bitBranch {i : Instr} {n : Nat} {want : Bool} {nn rr : Byte} {s : State}
    (hexec : exec i s = bitBranch i n want nn rr s) (hfetched : i.fetched = 2) (hcount : baseCycles i = 5) :
    BitBranches i ((Memory.read s.mem.ram nn.toNat).getLsbD n = want) nn rr s := by
  have hstart : startOf i s = s.pc - 2 := by rw [startOf, hfetched]; rfl
  rw [bitBranch_eq, hstart, zext_eq_join] at hexec
  obtain ⟨htaken, hnot⟩ := exec_branch hexec hcount beq_iff_eq
  exact ⟨htaken, hnot, sameStores_replay [readEv s.mem _, readEv s.mem _] s.mem rfl⟩

theorem exec_bbrAt (n : Fin 8) (nn rr : Byte) (s : State) :
    exec (bbrAt n nn rr) s = bitBranch (bbrAt n nn rr) n false nn rr s := by
  fin_cases n <;> rfl

theorem exec_bbsAt (n : Fin 8) (nn rr : Byte) (s : State) :
    exec (bbsAt n nn rr) s = bitBranch (bbsAt n nn rr) n true nn rr s := by
  fin_cases n <;> rfl

theorem baseCycles_bitBranch (n : Fin 8) (nn rr : Byte) : baseCycles (bbrAt n nn rr) = 5 ∧ baseCycles (bbsAt n nn rr) = 5 := by
  fin_cases n <;> exact ⟨rfl, rfl⟩

/-- Settles O55: the sixteen instructions differ only in the bit and in the value that they want of it. -/
theorem bitBranchesTestTheirBit : Obligations.BitBranchesTestTheirBit := fun n nn rr s =>
  have ⟨hfetchedR, hfetchedS⟩ := fetched_bitBranch n nn rr
  have ⟨hcountR, hcountS⟩ := baseCycles_bitBranch n nn rr
  ⟨bitBranches_of_bitBranch (exec_bbrAt n nn rr s) hfetchedR hcountR,
    bitBranches_of_bitBranch (exec_bbsAt n nn rr s) hfetchedS hcountS⟩

end Sys2Proof.Machine

/-! SUPPORT. Proofs of the statements about the flag instructions, NOP, WAI, STP and the unassigned opcodes
(47_flags_system.md): one rule for each kind, applied to its members. -/

namespace Sys2Proof.Machine

/-! ## Flag instructions (R380 to R386) -/

/-- An instruction of two cycles that writes one flag. P's bit U is not such a flag: it reads 1 whatever is written (R37). -/
theorem setsFlag_of_finish {i : Instr} {f : Flag} {v : Bool} {s : State}
    (hexec : exec i s = finish i (s.setP (setF f v s.p))) (hcount : baseCycles i = 2) (hu : f ≠ .u) : SetsFlag i f v s := by
  rw [finish_eq, hcount] at hexec
  have hset : getF f (forceU (setF f v s.p)) = v := by rw [getF_forceU, if_neg hu, getF_setF_same]
  have hkept : FlagsKeptBut [f] s.p (forceU (setF f v s.p)) :=
    flagsKeptBut_forceU fun g hg => getF_setF_other g f v s.p (List.ne_of_not_mem_cons hg)
  exact ⟨_, hexec, rfl, hset, hkept⟩

/-- Settles O56: the seven instructions differ in the flag and in the value that it gets. -/
theorem flagInstructionsWriteOneFlag : Obligations.FlagInstructionsWriteOneFlag := fun _ =>
  ⟨setsFlag_of_finish rfl rfl nofun, setsFlag_of_finish rfl rfl nofun, setsFlag_of_finish rfl rfl nofun,
    setsFlag_of_finish rfl rfl nofun, setsFlag_of_finish rfl rfl nofun, setsFlag_of_finish rfl rfl nofun,
    setsFlag_of_finish rfl rfl nofun⟩

/-! ## NOP, WAI and STP (R387, R390, R391) -/

/-- Settles O57: each is the common end of an instruction, from the state itself or with `exec` written. -/
theorem nopWaiAndStp : Obligations.NopWaiAndStp := fun s =>
  ⟨finish_eq .nop s, finish_eq .wai (s.setExec .waiting), finish_eq .stp (s.setExec .stopped)⟩

/-! ## Unassigned opcodes (R395, R396) -/

/-- Settles O58: the four formats are one operation with their own count and start, and the mark that a refusal leaves is the
second field that a step looks at. -/
theorem unassignedOpcodesFollowThePolicy : Obligations.UnassignedOpcodesFollowThePolicy := fun op b w s =>
  ⟨fun hnop => ⟨undocumented_nop (.nopU1 op) op s hnop, undocumented_nop (.nopU2 op b) op s hnop,
      undocumented_nop (.nopU2zp op b) op s hnop, undocumented_nop (.nopU3 op w) op s hnop⟩,
    fun hrefuse => ⟨undocumented_refuse (.nopU1 op) op s hrefuse, undocumented_refuse (.nopU2 op b) op s hrefuse,
      undocumented_refuse (.nopU2zp op b) op s hrefuse, undocumented_refuse (.nopU3 op w) op s hrefuse⟩,
    rfl, fun hfault => step_of_refusal _ _ hfault rfl⟩

end Sys2Proof.Machine

/-! SUPPORT. Proofs of the statements about the OS-call trap, the exceptions and the resets (48_os_call_trap.md, 60_exceptions.md,
70_reset_and_hazards.md): a JSR to the trap address is the trap operation, and CPU reset is two vector reads and its writes. -/

namespace Sys2Proof.Machine

/-! ## The OS-call trap (R410 to R418) -/

/-- A trapped JSR is the trap operation alone, its opcode being three bytes back: the check comes before any push (R410, R418). -/
theorem exec_jsr_of_trap (w : Word) (s : State) (h : s.cfg.mliTrapAddr = some w) :
    exec (.jsr w) s = osTrap (.jsr w) (s.pc - 3) s := by
  have ht : isTrapTarget s.cfg w = true := by simpa [isTrapTarget] using h
  simp only [exec, execJsr, ht, if_true]
  rfl

/-- P after an OS call: C says whether the status is an error, and every other flag is kept (R413, R416). -/
theorem flagsOf_osStatus (status p : Byte) :
    getF .c (forceU (setF .c (status != 0) p)) = decide (status ≠ 0) ∧
      FlagsKeptBut [.c] p (forceU (setF .c (status != 0) p)) := by
  have hc : (status != 0) = decide (status ≠ 0) := by rw [bne, Bool.beq_eq_decide_eq, decide_not]
  refine ⟨by rw [getF_forceU, if_neg (by decide), getF_setF_same, hc], flagsKeptBut_forceU fun f hf => ?_⟩
  exact getF_setF_other f .c _ p (by simpa using hf)

/-- Settles O59: from the opcode's address the descriptor's three bytes start where PC is, and their reads keep the ROM. -/
theorem trappedJsrCallsTheContext : Obligations.TrappedJsrCallsTheContext := by
  intro w s hw hctx es m1 r
  have hexec := (exec_jsr_of_trap w s hw).trans (osTrap_eq (.jsr w) (s.pc - 3) s hctx)
  have h3 : s.pc - 3 + 3 = s.pc := BitVec.sub_add_cancel _ _
  have h4 : s.pc - 3 + 4 = s.pc + 1 := by bv_omega
  have h5 : s.pc - 3 + 5 = s.pc + 2 := by bv_omega
  rw [h3, h4, h5] at hexec
  obtain ⟨hc, hkept⟩ := flagsOf_osStatus r.status s.p
  exact ⟨_, hexec, rfl, hc, hkept, replay_rom es s.mem⟩

/-- A step at a trapped JSR with no context attached (R414): the fetches before the trap keep the parameters. -/
theorem step_at_trap_of_no_ctx (s : State) (hready : s.Ready) (htrap : s.AtTrap) (hctx : s.cfg.ctx = false) :
    step s = .fault .noMLIContext := by
  obtain ⟨w, hi, hw⟩ := htrap
  rw [step_of_ready s hready, runInstr, hi, exec_jsr_of_trap, osTrap_no_ctx]
  · rwa [fetchBytes_cfg]
  · rwa [fetchBytes_cfg]

/-- Settles O60: a step looks at the fault first, and CPU reset overwrites it. -/
theorem trapWithoutContextKeepsTheState : Obligations.TrapWithoutContextKeepsTheState := by
  intro s hready htrap hctx
  rw [step_at_trap_of_no_ctx s hready htrap hctx]
  exact ⟨rfl, rfl, step_of_fault _ _ rfl, rfl⟩

/-! ## Exceptions (R430, R431, R438) -/

/-- Settles O17: a trapped JSR faults only with a trap address and no context, and a refusal needs the other policy. -/
theorem everyInstructionCompletes : Obligations.EveryInstructionCompletes := by
  intro i s hnop hctx
  obtain hnext | ⟨-, hno, w, -, hw⟩ | ⟨hrefuse, -⟩ := exec_outcome i s
  · exact hnext
  · obtain hyes | hnone := hctx
    · rw [hyes] at hno; cases hno
    · rw [hnone] at hw; cases hw
  · rw [hnop] at hrefuse; cases hrefuse

/-! ## Resets (R470 to R474) -/

/-- The two reads of the vector are at no switch (R470). -/
theorem replay_vectorReads (m : Banked) : replay [readEv m 0xFFFC, readEv m 0xFFFD] m = m := by
  simp only [replay_cons, replay_nil, readEv, apply_read_of_not_switch 0xFFFC _ _ rfl, apply_read_of_not_switch 0xFFFD _ _ rfl]

/-- CPU reset in terms of its bus reads, which start from cleared outputs. -/
theorem cpuReset_eq_afterBus (s : State) : s.cpuReset =
    { s.clearOutputs.afterBus [readEv s.mem 0xFFFC, readEv s.mem 0xFFFD] with
      pc := wordAt s.mem 0xFFFC, p := 0x24, sp := 0xFF, execState := .running, fault := none, booted := true } := by
  rw [State.cpuReset, read16_eq]
  rfl

/-- Settles O27: the vector reads leave the memory model as it was. -/
theorem cpuResetEffect : Obligations.CpuResetEffect := fun s => by
  rw [cpuReset_eq_afterBus, State.afterBus, State.clearOutputs_mem, replay_vectorReads]
  rfl

/-- After a memory reset with no ROM every byte reads 0x00: `ram` below window 13, the absent ROM from there on (R471). -/
theorem readMap_reset_of_no_rom (m : Banked) (a : Word) (h : m.rom = none) : m.reset.readMap a = 0x00 := by
  by_cases hlow : bank a ≤ 12
  · rw [readMap_low _ _ hlow]
    rfl
  · rw [readMap_readDisabled _ _ (Nat.not_le.1 hlow) rfl]
    simp only [Banked.readFrom, Banked.reset, h]

/-- Settles O29: the vector reads 0x0000, and the two resets overwrite all that construction leaves unspecified but A, X and Y. -/
theorem resetIsTheBootOfTheMachine : Obligations.ResetIsTheBootOfTheMachine := by
  rintro ⟨pc, a, x, y, sp, p, ram, lc2, lc⟩ rfl rfl rfl
  generalize hs : (State.construct Config.default ⟨pc, 0x00, 0x00, 0x00, sp, p, ram, lc2, lc⟩).memReset = s
  have hzero (b : Word) : s.mem.readMap b = 0x00 := hs ▸ readMap_reset_of_no_rom _ b rfl
  rw [cpuResetEffect, wordAt, readEv, readEv, hzero, hzero, hzero, ← hs]
  rfl

end Sys2Proof.Machine
